-- ==== Sys2Proof/Word.lean ====
section
/-! DEFINITION. The words of the block: a byte or character code is 8 bits, a base64 value 6 bits. Every value is unsigned (00_scope.md section 5, R4, R5). -/

namespace Sys2Proof

/-- A byte, `BYTE_W = 8` (00_scope.md R4). A character code is carried in the same width, `CHAR_W = 8` (R5), so one
sequence type serves byte buffers and strings. -/
abbrev Byte := BitVec 8

/-- A 6-bit base64 value, 0 to 63 (10_state.md R13, R14). -/
abbrev Sextet := BitVec 6

end Sys2Proof
end

