-- ==== Sys2Proof/Syntax.lean ====
section
/-! DEFINITION. Instructions, commands and what the host can do, as syntax (30_encoding.md). -/

namespace Sys2Proof

/-- The kind of a sequence of 8-bit elements: the payload's tag `K` (30_encoding.md R48) and the output's `OKIND`
(10_state.md R17). -/
inductive Kind where
  /-- Byte buffer, written 0. -/
  | bytes
  /-- String of character codes, written 1. -/
  | string
  deriving DecidableEq, Repr, Inhabited

/-- The five instructions (30_encoding.md R50), each with the payload's kind tag `K = CMD[3]`: both values of `K` select
the same instruction, which checks it (R47, R52). There is no other operand in the word (R55). -/
inductive Instr where
  /-- `hexEncode(buffer, false)` (40_hexcodec.md R63). -/
  | hexenc (k : Kind)
  /-- `hexEncode(buffer, true)` (40_hexcodec.md R64). -/
  | hexencu (k : Kind)
  /-- `hexDecode(input)` (40_hexcodec.md R66). -/
  | hexdec (k : Kind)
  /-- `base64Encode(buffer)` (41_base64codec.md R82). -/
  | b64enc (k : Kind)
  /-- `base64Decode(input)` (41_base64codec.md R85). -/
  | b64dec (k : Kind)
  deriving DecidableEq, Repr

/-- The tag `K` an instruction's word carries. -/
def Instr.kind : Instr → Kind
  | .hexenc k => k
  | .hexencu k => k
  | .hexdec k => k
  | .b64enc k => k
  | .b64dec k => k

/-- The fields of a command word (30_encoding.md R46). -/
structure CmdFields where
  /-- `CMD[1:0]`, the operation. -/
  op : BitVec 2
  /-- `CMD[2]`, the UUID form. -/
  u : Bool
  /-- `CMD[3]`, the payload's kind tag. -/
  k : Kind
  /-- `CMD[7:4]`, which must be zero. -/
  zero : BitVec 4
  deriving DecidableEq, Repr

/-- A command: its 8-bit word and its payload. The length `n` is the list's length (30_encoding.md R46, R48). -/
structure Command where
  word : Byte
  input : List Byte
  deriving DecidableEq, Repr

/-- What the host can do to the block: issue a command (10_state.md R22), or reset it (70_reset_and_hazards.md R120). -/
inductive HostEvent where
  /-- Issue a command and wait for its response. -/
  | issue (c : Command)
  /-- Reset. With `some c`, command `c` was in progress and is abandoned (70_reset_and_hazards.md R124). -/
  | reset (abandoned : Option Command)
  deriving DecidableEq, Repr

end Sys2Proof
end

