-- ==== Sys2Proof/WellFormed.lean ====
section
/-! DEFINITION. The checks of 30_encoding.md R46 on the fields of a command word, and well-formed instructions. -/

namespace Sys2Proof

/-- `CMD[7:4]` must be `0b0000` (30_encoding.md R46). -/
def CmdFields.zeroIsClear (f : CmdFields) : Bool := f.zero == 0

/-- `U` must be 0 unless `OP = 0b00` (30_encoding.md R46). -/
def CmdFields.uuidOnlyOnEncode (f : CmdFields) : Bool := !f.u || f.op == 0

/-- A command word that is not reserved (30_encoding.md R46, R51). -/
def CmdFields.wellFormed (f : CmdFields) : Bool := f.zeroIsClear && f.uuidOnlyOnEncode

/-- Every instruction term is well formed: the one operand of each, `K`, may have either value (30_encoding.md R47). -/
def Instr.wellFormed : Instr → Bool
  | .hexenc _ => true
  | .hexencu _ => true
  | .hexdec _ => true
  | .b64enc _ => true
  | .b64dec _ => true

end Sys2Proof
end

