-- ==== Sys2Proof/Decode.lean ====
section
/-! DEFINITION. The decoder, total on all 256 command words, and the encoder (30_encoding.md R46, R47, R50, R51, R54). -/

namespace Sys2Proof

/-- Why a command word is reserved (30_encoding.md R51). -/
inductive Reserved where
  /-- `CMD[7:4] != 0`: 240 words. -/
  | highBits
  /-- `U = 1` with `OP != 0`: 6 words. -/
  | uuidFlag
  deriving DecidableEq, Repr

/-- What the decoder answers for a word. -/
inductive Decoded where
  | instr (i : Instr)
  | reserved (why : Reserved)
  deriving DecidableEq, Repr

/-- `K` from its bit: 0 byte buffer, 1 string (30_encoding.md R46). -/
def Kind.ofBit (b : Bool) : Kind := if b then .string else .bytes

/-- The bit of a kind, for the tag `K` (30_encoding.md R46) and for `OKIND` (10_state.md R17). -/
def Kind.bit : Kind → BitVec 1
  | .bytes => 0
  | .string => 1

/-- The fields of a command word, by the bit positions of 30_encoding.md R46. -/
def CmdFields.ofWord (w : Byte) : CmdFields where
  op := w.extractLsb' 0 2
  u := w.getLsbD 2
  k := Kind.ofBit (w.getLsbD 3)
  zero := w.extractLsb' 4 4

/-- The command word of given fields, `CMD[7:4]` first (30_encoding.md R46). -/
def CmdFields.toWord (f : CmdFields) : Byte := f.zero ++ f.k.bit ++ BitVec.ofBool f.u ++ f.op

/-- The instruction that well-formed fields select (30_encoding.md R47, R50), or the reason the word is reserved (R51). -/
def CmdFields.decode (f : CmdFields) : Decoded :=
  if f.zero ≠ 0 then .reserved .highBits
  else if f.op = 0 then .instr (if f.u then .hexencu f.k else .hexenc f.k)
  else if f.u then .reserved .uuidFlag
  else if f.op = 1 then .instr (.hexdec f.k)
  else if f.op = 2 then .instr (.b64enc f.k)
  else .instr (.b64dec f.k)

/-- The decoder (30_encoding.md R50, R51, R54). -/
def decode (w : Byte) : Decoded := (CmdFields.ofWord w).decode

/-- The fields of an instruction's word (30_encoding.md R46, R47). -/
def Instr.fields : Instr → CmdFields
  | .hexenc k => { op := 0, u := false, k := k, zero := 0 }
  | .hexencu k => { op := 0, u := true, k := k, zero := 0 }
  | .hexdec k => { op := 1, u := false, k := k, zero := 0 }
  | .b64enc k => { op := 2, u := false, k := k, zero := 0 }
  | .b64dec k => { op := 3, u := false, k := k, zero := 0 }

/-- The encoder: the one command word of an instruction (30_encoding.md R50, R54). -/
def encode (i : Instr) : Byte := i.fields.toWord

/-- One row of the opcode map: a word `w` selects it when `w & mask = pattern` (30_encoding.md R50). -/
structure OpcodeRow where
  mnemonic : String
  mask : Byte
  pattern : Byte
  deriving DecidableEq, Repr

/-- The opcode map (30_encoding.md R50), the second description of the encodings beside the fields of R46. -/
def opcodeMap : List OpcodeRow :=
  [ ⟨"HEXENC", 0xF7, 0x00⟩, ⟨"HEXENCU", 0xF7, 0x04⟩, ⟨"HEXDEC", 0xF7, 0x01⟩, ⟨"B64ENC", 0xF7, 0x02⟩,
    ⟨"B64DEC", 0xF7, 0x03⟩ ]

/-- Word `w` selects row `r` (30_encoding.md R50). -/
def OpcodeRow.selects (r : OpcodeRow) (w : Byte) : Bool := w &&& r.mask == r.pattern

/-- The name of an instruction in the opcode map (30_encoding.md R50). -/
def Instr.mnemonic : Instr → String
  | .hexenc _ => "HEXENC"
  | .hexencu _ => "HEXENCU"
  | .hexdec _ => "HEXDEC"
  | .b64enc _ => "B64ENC"
  | .b64dec _ => "B64DEC"

/-- The host's question to the decoder: the instruction of a table word. A command is one byte (30_encoding.md R54), so
`nbits` is 8 and a longer value is no command word. -/
def decodeTableWord (nbits w : Nat) : Option Instr :=
  if w % 2 ^ nbits < 256 then
    match decode (BitVec.ofNat 8 (w % 2 ^ nbits)) with
    | .instr i => some i
    | .reserved _ => none
  else none

end Sys2Proof
end

