-- ==== Sys2Proof/Config.lean ====
section
/-! DEFINITION. What an implementation fixes when the block is built (00_scope.md section 4), and the values the spec leaves unspecified. -/

namespace Sys2Proof

/-- What `B64ENC` does with a length that is not a multiple of 3 (00_scope.md R6). -/
inductive TailPolicy where
  /-- Raise `LengthError` (41_base64codec.md R84). -/
  | fault
  /-- Leave the last 1 or 2 bytes out of the output (R83). -/
  | drop
  deriving DecidableEq, Repr, Inhabited

/-- The build's parameters. No command reads or writes them as data (10_state.md R23). -/
structure Params where
  /-- `TAIL_POLICY` (00_scope.md R6). -/
  tailPolicy : TailPolicy
  /-- `MAX_LEN`; `none` is "no bound", the reference value (00_scope.md R8). -/
  maxLen : Option Nat
  deriving DecidableEq, Repr

/-- `TAIL_POLICY` is left OPEN by the spec (00_scope.md R6): a free value with no body. DESIGN CHOICE, log entry 4. -/
opaque Config.tailPolicy : TailPolicy

/-- The 192 entries of `B64REV` outside the alphabet are unspecified (10_state.md R14; 93_implementation_defined.md U1):
free values with no body. Log entry 6. -/
opaque Config.b64revUnspecified : Byte → Sextet

/-- The parameters of the machine that `State.reset` describes: the open tail policy, and the reference value "no bound"
of `MAX_LEN` (00_scope.md R8). DESIGN CHOICE, log entries 4 and 5. -/
def Config.params : Params := { tailPolicy := Config.tailPolicy, maxLen := none }

end Sys2Proof
end

