-- ==== Sys2Proof/Machine/Codes.lean ====
section
/-! DEFINITION. Character codes, the predicates on them, and the digit functions of both alphabets (00_scope.md R9 and section 5; 10_state.md R12, R13, R14; 40_hexcodec.md R61). -/

namespace Sys2Proof.Machine

/-- The code of the dash (00_scope.md R9). -/
def dash : Byte := 0x2D

/-- `c` is one of `0-9` (00_scope.md R9). -/
def isDigit (c : Byte) : Bool := decide (0x30#8 ≤ c) && decide (c ≤ 0x39#8)

/-- `c` is one of `A-Z`. -/
def isUpper (c : Byte) : Bool := decide (0x41#8 ≤ c) && decide (c ≤ 0x5A#8)

/-- `c` is one of `a-z`. -/
def isLower (c : Byte) : Bool := decide (0x61#8 ≤ c) && decide (c ≤ 0x7A#8)

/-- `isDash` of 00_scope.md section 5. -/
def isDash (c : Byte) : Bool := c == dash

/-- `isHex` of 00_scope.md section 5: `0-9`, `A-F`, `a-f`. -/
def isHex (c : Byte) : Bool :=
  isDigit c || (decide (0x41#8 ≤ c) && decide (c ≤ 0x46#8)) || (decide (0x61#8 ≤ c) && decide (c ≤ 0x66#8))

/-- `isB64` of 00_scope.md section 5: one of the 64 characters of the alphabet. -/
def isB64 (c : Byte) : Bool := isUpper c || isLower c || isDigit c || c == 0x2D#8 || c == 0x5F#8

/-- The lowercase hexadecimal digit of a nibble value (10_state.md R12). -/
def hexchar (d : Nat) : Byte := if d ≤ 9 then BitVec.ofNat 8 (0x30 + d) else BitVec.ofNat 8 (0x61 + (d - 10))

/-- The value of a hex digit of either case (40_hexcodec.md R61). The rule defines it only where `isHex c`, and nothing
reads it elsewhere: `HEXDEC` checks every character first (R66). Log entry 10. -/
def hexval (c : Byte) : Nat :=
  if isDigit c then c.toNat - 0x30
  else if decide (0x61#8 ≤ c) then c.toNat - 0x61 + 10
  else c.toNat - 0x41 + 10

/-- The character of a 6-bit value, in the closed form of 10_state.md R13. -/
def b64char (v : Nat) : Byte :=
  if v ≤ 25 then BitVec.ofNat 8 (0x41 + v)
  else if v ≤ 51 then BitVec.ofNat 8 (0x61 + (v - 26))
  else if v ≤ 61 then BitVec.ofNat 8 (0x30 + (v - 52))
  else if v = 62 then 0x2D
  else 0x5F

/-- The 6-bit value of an alphabet character, in the closed form of 10_state.md R14. The rule gives it only where
`isB64 c`; `b64revContents` uses it only there. -/
def b64value (c : Byte) : Nat :=
  if isUpper c then c.toNat - 0x41
  else if isLower c then c.toNat - 0x61 + 26
  else if isDigit c then c.toNat - 0x30 + 52
  else if c = 0x2D then 62
  else 63

end Sys2Proof.Machine
end

