-- ==== Sys2Proof/Machine/Tables.lean ====
section
/-! DEFINITION. The contents of the three lookup tables, complete when reset ends (10_state.md R11, R13, R14, R15, R27; 70_reset_and_hazards.md R121). -/

namespace Sys2Proof.Machine

/-- A table of `n` entries given by a function of the index. -/
def tableOf {α : Type} (n : Nat) (f : Nat → α) : Vector α n := ⟨((List.range n).map f).toArray, by simp⟩

/-- The two characters of a byte value, high nibble first (10_state.md R11, 20_memory.md R34). -/
def hexPairOf (b : Nat) : Byte × Byte := (hexchar (b >>> 4), hexchar (b &&& 15))

/-- `HEXLUT` (10_state.md R11). -/
def hexlutContents : Vector (Byte × Byte) 256 := tableOf 256 hexPairOf

/-- `B64ALPHA` (10_state.md R13). -/
def b64alphaContents : Vector Byte 64 := tableOf 64 b64char

/-- One entry of `B64REV`: the value of an alphabet code; a free value at any other code (10_state.md R14). -/
def b64revEntry (c : Nat) : Sextet :=
  if isB64 (BitVec.ofNat 8 c) then BitVec.ofNat 6 (b64value (BitVec.ofNat 8 c))
  else Config.b64revUnspecified (BitVec.ofNat 8 c)

/-- `B64REV` (10_state.md R14). -/
def b64revContents : Vector Sextet 256 := tableOf 256 b64revEntry

/-- Read a 256-entry table at a byte value: `HEXLUT[b]`, `B64REV[c]` (00_scope.md section 5). -/
def readByByte {α : Type} (t : Vector α 256) (b : Byte) : α := t[b.toNat]'b.isLt

/-- Read a 64-entry table at a 6-bit value: `B64ALPHA[v]` (00_scope.md section 5). -/
def readBySextet {α : Type} (t : Vector α 64) (v : Sextet) : α := t[v.toNat]'v.isLt

end Sys2Proof.Machine
end

