-- ==== Sys2Proof/Machine/State.lean ====
section
/-! DEFINITION. The state of the block, the reasons a step can stop, and the state after reset (10_state.md). -/

namespace Sys2Proof.Machine

/-- The block never stops with a fault: its errors are values of `STATUS` after which it goes on (60_exceptions.md R106,
R116), and nothing hangs (70_reset_and_hazards.md R129). So there is no reason to name. -/
inductive Fault where
  deriving DecidableEq, Repr

/-- Why the model gives a command, or a host's read, no meaning. -/
inductive Refusal where
  /-- Raised by an arm of `exec` that has no meaning yet. Safe. No arm raises it in this model. -/
  | notModelled (mnemonic : String)
  /-- Raised by any command whose input or output exceeds `MAX_LEN` in a build that has a bound (00_scope.md R8;
  93_implementation_defined.md V7). Safe: the spec itself has such a command refused. -/
  | exceedsMaxLen
  /-- Raised by a host's read of `OBUF` at an index `>= OLEN`: that element does not exist (10_state.md R19;
  93_implementation_defined.md V5). Safe. No step raises it. -/
  | outputElementAbsent
  deriving DecidableEq, Repr

/-- The source's three error kinds and the spec's fourth (60_exceptions.md R100). -/
inductive ErrorKind where
  /-- The payload's kind is not the expected one (R101). -/
  | typeError
  /-- The payload's length violates a fixed contract (R102). -/
  | lengthError
  /-- A character outside the alphabet, or a `B64DEC` length that is not a multiple of 4 (R103). -/
  | formatError
  /-- The command word is reserved (R105). -/
  | illegalCommand
  deriving DecidableEq, Repr

/-- The five values of `STATUS` (10_state.md R16, 60_exceptions.md R100); codes 5, 6 and 7 are never written, so the type
has none (93_implementation_defined.md V2). -/
inductive Status where
  | ok
  | error (e : ErrorKind)
  deriving DecidableEq, Repr

/-- A response: what a command leaves in the four response registers (30_encoding.md R49). -/
structure Response where
  status : Status
  okind : Kind
  olen : Nat
  obuf : List Byte
  deriving DecidableEq, Repr

/-- The state. The first seven fields are the block's own, a closed list (10_state.md R10); `ibuf` and `host` are the
host's side, which a step reads (R24; log entries 1 and 3); `params` is the build's (R23; log entries 4 and 5). -/
structure State where
  /-- `HEXLUT` (10_state.md R11). -/
  hexlut : Vector (Byte × Byte) 256
  /-- `B64ALPHA` (R13). -/
  b64alpha : Vector Byte 64
  /-- `B64REV` (R14). -/
  b64rev : Vector Sextet 256
  /-- `STATUS` (R16). -/
  status : Status
  /-- `OKIND` (R17). -/
  okind : Kind
  /-- `OLEN` (R18). -/
  olen : Nat
  /-- `OBUF` (R19). -/
  obuf : List Byte
  /-- `IBUF`, the payload of the command being executed (20_memory.md R31). -/
  ibuf : List Byte
  /-- What the host does next, in order (30_encoding.md R57, 20_memory.md R40). -/
  host : List HostEvent
  /-- `TAIL_POLICY` and `MAX_LEN` (00_scope.md R6, R8). -/
  params : Params
  deriving DecidableEq, Repr

/-- The response registers as the host reads them (30_encoding.md R49). -/
def State.response (s : State) : Response :=
  { status := s.status, okind := s.okind, olen := s.olen, obuf := s.obuf }

/-- The state right after reset (10_state.md R27, 70_reset_and_hazards.md R120): tables complete, response registers
`(0, 0, 0, [])`, nothing issued yet (log entries 1 and 3). -/
def State.reset : State where
  hexlut := hexlutContents
  b64alpha := b64alphaContents
  b64rev := b64revContents
  status := .ok
  okind := .bytes
  olen := 0
  obuf := []
  ibuf := []
  host := []
  params := Config.params

end Sys2Proof.Machine
end

