-- ==== Sys2Proof/Machine/Flags.lean ====
section
/-! DEFINITION. `STATUS`, the block's only condition code (10_state.md R16): its numeric codes, and the two shapes of a response that set it (30_encoding.md R49). -/

namespace Sys2Proof.Machine

/-- The numeric code of `STATUS` (60_exceptions.md R100). -/
def Status.code : Status → BitVec 3
  | .ok => 0
  | .error .typeError => 1
  | .error .lengthError => 2
  | .error .formatError => 3
  | .error .illegalCommand => 4

/-- `done(kind, OUT)`: normal completion (10_state.md R20). -/
def done (kind : Kind) (out : List Byte) : Response :=
  { status := .ok, okind := kind, olen := out.length, obuf := out }

/-- `raise <Kind>`: the response of a command that ends in an error (60_exceptions.md R106). -/
def raise (e : ErrorKind) : Response := { status := .error e, okind := .bytes, olen := 0, obuf := [] }

/-- The response registers in numbers: `STATUS`, `OKIND`, `OLEN`, `OBUF` (30_encoding.md R49). -/
def Response.numbers (r : Response) : Nat × Nat × Nat × List Nat :=
  (r.status.code.toNat, r.okind.bit.toNat, r.olen, r.obuf.map BitVec.toNat)

end Sys2Proof.Machine
end

