-- ==== Sys2Proof/Machine/Operands.lean ====
section
/-! DEFINITION. The one operand form, the payload `(K, n, IN)` (30_encoding.md R48, R55): its kind check and dash removal. -/

namespace Sys2Proof.Machine

/-- `HEX_LEN`, the only length `HEXENC` and `HEXENCU` accept (00_scope.md R4). -/
def hexLen : Nat := 16

/-- The payload kind an instruction expects (30_encoding.md R50, R52). -/
def expectedKind : Instr → Kind
  | .hexenc _ => .bytes
  | .hexencu _ => .bytes
  | .hexdec _ => .string
  | .b64enc _ => .bytes
  | .b64dec _ => .string

/-- The kind check every instruction makes before it looks at the payload: a wrong kind raises `TypeError`
(30_encoding.md R52, 60_exceptions.md R101, R104). -/
def expectKind (want got : Kind) (r : Response) : Response := if got = want then r else raise .typeError

/-- `strip(s)`: `s` without its dashes, in order, wherever they stand (40_hexcodec.md R62). -/
def strip (s : List Byte) : List Byte := s.filter fun c => !isDash c

end Sys2Proof.Machine
end

