-- ==== Sys2Proof/Machine/Ops.lean ====
section
/-! DEFINITION. The named operations on the state: ending a command with its response, raising an error, accepting a command, reset, and the host's read of the output. -/

namespace Sys2Proof.Machine

/-- A length is within `MAX_LEN` (00_scope.md R8). -/
def withinMaxLen (p : Params) (n : Nat) : Bool :=
  match p.maxLen with
  | none => true
  | some m => decide (n ≤ m)

/-- Write the four response registers, all at once (10_state.md R20, 20_memory.md R39, 60_exceptions.md R106). -/
def State.withResponse (s : State) (r : Response) : State :=
  { s with status := r.status, okind := r.okind, olen := r.olen, obuf := r.obuf }

/-- End a command with its response. A build with a `MAX_LEN` refuses, whole, a command whose input or output exceeds it
(00_scope.md R8). Nothing but the response registers changes (10_state.md R20, 60_exceptions.md R106, R107). -/
def respond (r : Response) (s : State) : Host.Outcome State Fault Refusal :=
  if withinMaxLen s.params s.ibuf.length && withinMaxLen s.params r.olen then .next (s.withResponse r)
  else .refused .exceedsMaxLen

/-- Taking an exception on this block: the command ends with an error and the block is at once ready for the next one.
There is no handler, saved context or return (60_exceptions.md R106, R109). -/
def raiseError (e : ErrorKind) (s : State) : Host.Outcome State Fault Refusal := respond (raise e) s

/-- The block takes command `c` from the host: its payload becomes the input, and the rest of what the host does stays to
be done (30_encoding.md R48, 20_memory.md R40). -/
def State.accept (s : State) (c : Command) (rest : List HostEvent) : State :=
  { s with ibuf := c.input, host := rest }

/-- Reset: every piece of the block's state takes its reset value (10_state.md R27, 70_reset_and_hazards.md R120, R122). The
host's side and the build's parameters are not the block's and stay (R24, R23; log entry 8). -/
def State.resetBlock (s : State) : State :=
  { State.reset with ibuf := s.ibuf, host := s.host, params := s.params }

/-- A reset of the block, between commands or while `abandoned` is in progress, whose response is then never produced
(70_reset_and_hazards.md R124). The abandoned command's payload is the one `ibuf` then holds. DESIGN CHOICE, log entry 8: a
command beyond `MAX_LEN` is abandoned like any other, with no refusal; the spec has such a command refused (00_scope.md R8)
and one in progress abandoned (R124), and does not say which holds of a command that is both. -/
def State.takeReset (s : State) (abandoned : Option Command) (rest : List HostEvent) : State :=
  match abandoned with
  | none => { s with host := rest }.resetBlock
  | some c => (s.accept c rest).resetBlock

/-- The payload a command issued now would carry: that of the command the host has waiting, else the one it last
presented. -/
def State.presentedInput (s : State) : List Byte :=
  match s.host with
  | .issue c :: _ => c.input
  | _ => s.ibuf

/-- What the host does after the command it has waiting, if it has one waiting. -/
def State.afterWaiting (s : State) : List HostEvent :=
  match s.host with
  | .issue _ :: rest => rest
  | events => events

/-- The host's read of element `j` of `OBUF`; elements at `j >= OLEN` do not exist (10_state.md R19). Reading changes
nothing (20_memory.md R37). -/
def readObuf (s : State) (j : Nat) : Host.Outcome Byte Fault Refusal :=
  match if j < s.olen then s.obuf[j]? else none with
  | some b => .next b
  | none => .refused .outputElementAbsent

end Sys2Proof.Machine
end

