-- ==== Sys2Proof/Machine/Base64.lean ====
section
/-! DEFINITION. Base64Codec: `B64ENC`, `B64DEC` (41_base64codec.md). One implementation a direction, manual bit packing (00_scope.md R7, 41_base64codec.md R92). -/

namespace Sys2Proof.Machine

/-- `pack3(b1, b2, b3)`: three bytes as four 6-bit values (41_base64codec.md R81; 20_memory.md R35). -/
def pack3 (b1 b2 b3 : Byte) : Sextet × Sextet × Sextet × Sextet :=
  ( (b1 >>> 2).setWidth 6,
    (((b1 &&& 3#8) <<< 4) ||| (b2 >>> 4)).setWidth 6,
    (((b2 &&& 15#8) <<< 2) ||| (b3 >>> 6)).setWidth 6,
    (b3 &&& 63#8).setWidth 6 )

/-- `unpack4(v0, v1, v2, v3)`: four 6-bit values as three bytes (41_base64codec.md R87). -/
def unpack4 (v0 v1 v2 v3 : Sextet) : Byte × Byte × Byte :=
  ( (v0.setWidth 8 <<< 2) ||| (v1.setWidth 8 >>> 4),
    ((v1.setWidth 8 &&& 15#8) <<< 4) ||| (v2.setWidth 8 >>> 2),
    ((v2.setWidth 8 &&& 3#8) <<< 6) ||| v3.setWidth 8 )

/-- The four characters of one group of three bytes (41_base64codec.md R82). -/
def b64Chars (alpha : Vector Byte 64) (b1 b2 b3 : Byte) : List Byte :=
  match pack3 b1 b2 b3 with
  | (v0, v1, v2, v3) =>
    [readBySextet alpha v0, readBySextet alpha v1, readBySextet alpha v2, readBySextet alpha v3]

/-- The three bytes of one group of four characters (41_base64codec.md R85). -/
def b64Bytes (rev : Vector Sextet 256) (c0 c1 c2 c3 : Byte) : List Byte :=
  match unpack4 (readByByte rev c0) (readByByte rev c1) (readByByte rev c2) (readByByte rev c3) with
  | (b1, b2, b3) => [b1, b2, b3]

/-- The loop of `B64ENC` over the whole groups; a tail of 1 or 2 bytes is not read (41_base64codec.md R82, R83). -/
def b64EncodeGroups (alpha : Vector Byte 64) : List Byte → List Byte
  | b1 :: b2 :: b3 :: rest => b64Chars alpha b1 b2 b3 ++ b64EncodeGroups alpha rest
  | _ => []

/-- The loop of `B64DEC` over the groups of four characters (41_base64codec.md R85). -/
def b64DecodeGroups (rev : Vector Sextet 256) : List Byte → List Byte
  | c0 :: c1 :: c2 :: c3 :: rest => b64Bytes rev c0 c1 c2 c3 ++ b64DecodeGroups rev rest
  | _ => []

/-- The length check of `B64ENC`: a tail is an error only under `TAIL_POLICY = FAULT` (41_base64codec.md R83, R84). -/
def tailFaults (policy : TailPolicy) (n : Nat) : Bool :=
  match n % 3 with
  | 0 => false
  | _ =>
    match policy with
    | .fault => true
    | .drop => false

/-- The response of `B64ENC` (41_base64codec.md R82). -/
def b64encResponse (alpha : Vector Byte 64) (policy : TailPolicy) (k : Kind) (input : List Byte) : Response :=
  expectKind .bytes k <|
    if tailFaults policy input.length then raise .lengthError
    else done .string (b64EncodeGroups alpha input)

/-- The response of `B64DEC` (41_base64codec.md R85). Every character passes `isB64` before `B64REV` is read (R86). -/
def b64decResponse (rev : Vector Sextet 256) (k : Kind) (input : List Byte) : Response :=
  expectKind .string k <|
    if input.length % 4 ≠ 0 then raise .formatError
    else if !input.all isB64 then raise .formatError
    else done .bytes (b64DecodeGroups rev input)

/-- `B64ENC` (41_base64codec.md R82). -/
def execB64enc (k : Kind) (s : State) : Host.Outcome State Fault Refusal :=
  respond (b64encResponse s.b64alpha s.params.tailPolicy k s.ibuf) s

/-- `B64DEC` (41_base64codec.md R85). -/
def execB64dec (k : Kind) (s : State) : Host.Outcome State Fault Refusal := respond (b64decResponse s.b64rev k s.ibuf) s

end Sys2Proof.Machine
end

