-- ==== Sys2Proof/Machine/Hex.lean ====
section
/-! DEFINITION. HexCodec: `HEXENC`, `HEXENCU`, `HEXDEC` (40_hexcodec.md). -/

namespace Sys2Proof.Machine

/-- `HEXLUT[b]` as a sequence of two characters (10_state.md R11). -/
def hexPair (lut : Vector (Byte × Byte) 256) (b : Byte) : List Byte := [(readByByte lut b).1, (readByByte lut b).2]

/-- The loop of `HEXENC`: two characters a byte, in order (40_hexcodec.md R63). -/
def hexPlain (lut : Vector (Byte × Byte) 256) (input : List Byte) : List Byte := input.flatMap (hexPair lut)

/-- A dash stands before the bytes of index 4, 6, 8 and 10 (40_hexcodec.md R64, R65; 90_conflicts.md C3). -/
def dashBefore (i : Nat) : Bool := i == 4 || i == 6 || i == 8 || i == 10

/-- The loop of `HEXENCU` from byte index `i` on (40_hexcodec.md R64). -/
def hexDashed (lut : Vector (Byte × Byte) 256) : Nat → List Byte → List Byte
  | _, [] => []
  | i, b :: rest => (if dashBefore i then [dash] else []) ++ hexPair lut b ++ hexDashed lut (i + 1) rest

/-- The conversion loop of `HEXDEC`: each pair of digits is one byte, high nibble first (40_hexcodec.md R66, R70). -/
def hexBytes : List Byte → List Byte
  | hi :: lo :: rest => BitVec.ofNat 8 (hexval hi * 16 + hexval lo) :: hexBytes rest
  | _ => []

/-- The response of `HEXENC` (40_hexcodec.md R63). -/
def hexencResponse (lut : Vector (Byte × Byte) 256) (k : Kind) (input : List Byte) : Response :=
  expectKind .bytes k <|
    if input.length ≠ hexLen then raise .lengthError
    else done .string (hexPlain lut input)

/-- The response of `HEXENCU` (40_hexcodec.md R64). -/
def hexencuResponse (lut : Vector (Byte × Byte) 256) (k : Kind) (input : List Byte) : Response :=
  expectKind .bytes k <|
    if input.length ≠ hexLen then raise .lengthError
    else done .string (hexDashed lut 0 input)

/-- The response of `HEXDEC` (40_hexcodec.md R66), its checks in the order of 60_exceptions.md R104. -/
def hexdecResponse (k : Kind) (input : List Byte) : Response :=
  expectKind .string k <|
    if (strip input).length % 2 = 1 then raise .lengthError
    else if !(strip input).all isHex then raise .formatError
    else done .bytes (hexBytes (strip input))

/-- `HEXENC` (40_hexcodec.md R63). -/
def execHexenc (k : Kind) (s : State) : Host.Outcome State Fault Refusal := respond (hexencResponse s.hexlut k s.ibuf) s

/-- `HEXENCU` (40_hexcodec.md R64). -/
def execHexencu (k : Kind) (s : State) : Host.Outcome State Fault Refusal := respond (hexencuResponse s.hexlut k s.ibuf) s

/-- `HEXDEC` (40_hexcodec.md R66). -/
def execHexdec (k : Kind) (s : State) : Host.Outcome State Fault Refusal := respond (hexdecResponse k s.ibuf) s

end Sys2Proof.Machine
end

