-- ==== Sys2Proof/Machine/Dispatch.lean ====
section
/-! DEFINITION. exec: one arm per instruction (30_encoding.md R50). -/

namespace Sys2Proof.Machine

def exec (i : Instr) (s : State) : Host.Outcome State Fault Refusal :=
  match i with
  | .hexenc k => Sys2Proof.Machine.execHexenc k s
  | .hexencu k => Sys2Proof.Machine.execHexencu k s
  | .hexdec k => Sys2Proof.Machine.execHexdec k s
  | .b64enc k => Sys2Proof.Machine.execB64enc k s
  | .b64dec k => Sys2Proof.Machine.execB64dec k s

end Sys2Proof.Machine
end

