-- ==== Sys2Proof/Machine/Step.lean ====
section
/-! DEFINITION. One step: the block does the next thing its host asks, a whole command or a reset (20_memory.md R30, R39, R40); and the runs of 30_encoding.md R57. -/

namespace Sys2Proof.Machine

/-- One step. A reserved word raises `IllegalCommand` before any other check (30_encoding.md R51, R58). With nothing asked
of it the block is idle, with all state retained (60_exceptions.md R117; log entry 2). -/
def step (s : State) : Host.Outcome State Fault Refusal :=
  match s.host with
  | [] => .next s
  | .reset abandoned :: rest => .next (s.takeReset abandoned rest)
  | .issue c :: rest =>
    match decode c.word with
    | .instr i => exec i (s.accept c rest)
    | .reserved _ => raiseError .illegalCommand (s.accept c rest)

/-- The state with the command word `w` issued next, with the payload the host presents (log entry 1). -/
def State.withFetchWord (s : State) (nbits w : Nat) : State :=
  { s with
    host := .issue { word := BitVec.ofNat 8 (w % 2 ^ nbits), input := s.presentedInput } :: s.afterWaiting }

/-- The state with `c` issued and nothing after it. -/
def State.issue (s : State) (c : Command) : State := { s with host := [.issue c] }

/-- The observation of a run: the responses to the commands, in the order of issue (30_encoding.md R57), or none where a
build with a `MAX_LEN` refuses one of them. -/
def responses : List Command → State → Option (List Response)
  | [], _ => some []
  | c :: rest, s =>
    match step (s.issue c) with
    | .next t => (responses rest t).map (t.response :: ·)
    | .fault _ => none
    | .refused _ => none

end Sys2Proof.Machine
end

