-- ==== Sys2Proof/Machine/Assembly.lean ====
section
/-! DEFINITION. The textual syntax of a command, both ways (30_encoding.md R56): a line of text, as character codes, to a command, and a command to its line. -/

namespace Sys2Proof.Machine

/-- The codes of a piece of text (00_scope.md R9). -/
def ascii (s : String) : List Byte := s.toList.map fun c => BitVec.ofNat 8 c.toNat

/-- `line` without its leading spaces. -/
def skipSpaces (line : List Byte) : List Byte := line.dropWhile (· == 0x20#8)

/-- Nothing but spaces and a comment after `;` may follow a payload literal (30_encoding.md R56). -/
def endsLine (line : List Byte) : Bool :=
  match skipSpaces line with
  | [] => true
  | c :: _ => c == 0x3B#8

/-- The byte value of two hex digits, either case. -/
def twoDigits (h l : Byte) : Option Byte :=
  if isHex h && isHex l then some (BitVec.ofNat 8 (hexval h * 16 + hexval l)) else none

/-- The elements of a byte-buffer literal after `b[`, up to its `]`, and the text after it (30_encoding.md R56). A value
may start only where `spaced`: right after the `[`, or after a space. -/
def readBytes (spaced : Bool) : List Byte → Option (List Byte × List Byte)
  | [] => none
  | c :: t =>
    if c = 0x5D#8 then some ([], t)
    else if c = 0x20#8 then readBytes true t
    else if spaced then
      match t with
      | [] => none
      | l :: t' =>
        match twoDigits c l, readBytes false t' with
        | some b, some (bs, rest) => some (b :: bs, rest)
        | _, _ => none
    else none

/-- The elements of a string literal after its opening quote, up to the closing one, and the text after it, with the
escapes `\xHH`, `\"` and `\\` (30_encoding.md R56). A line feed ends the line and so cannot stand in a literal. -/
def readString : List Byte → Option (List Byte × List Byte)
  | [] => none
  | c :: t =>
    if c = 0x22#8 then some ([], t)
    else if c = 0x0A#8 then none
    else if c = 0x5C#8 then
      match t with
      | [] => none
      | e :: t' =>
        if e = 0x22#8 || e = 0x5C#8 then (readString t').map fun r => (e :: r.1, r.2)
        else if e = 0x78#8 then
          match t' with
          | h :: l :: t'' =>
            match twoDigits h l, readString t'' with
            | some b, some (bs, rest) => some (b :: bs, rest)
            | _, _ => none
          | _ => none
        else none
    else (readString t).map fun r => (c :: r.1, r.2)

/-- A payload literal `b[..]` or `s".."`: its kind, its elements and the text after it (30_encoding.md R56). -/
def readLiteral : List Byte → Option (Kind × List Byte × List Byte)
  | c :: d :: t =>
    if c = 0x62#8 && d = 0x5B#8 then (readBytes true t).map fun r => (.bytes, r)
    else if c = 0x73#8 && d = 0x22#8 then (readString t).map fun r => (.string, r)
    else none
  | _ => none

/-- A payload literal that ends the line: its kind and elements. -/
def readPayload (line : List Byte) : Option (Kind × List Byte) :=
  match readLiteral (skipSpaces line) with
  | some (k, bs, rest) => if endsLine rest then some (k, bs) else none
  | none => none

/-- The instruction of a mnemonic; the literal decides `K` (30_encoding.md R56). -/
def instrNamed (name : List Byte) (k : Kind) : Option Instr :=
  [Instr.hexenc k, .hexencu k, .hexdec k, .b64enc k, .b64dec k].find? fun i => ascii i.mnemonic == name

/-- A line to its command: `MNEMONIC payload-literal`, or `.cmd 0xHH payload-literal`, where the word is taken as written
and the literal's kind is ignored for it (30_encoding.md R56). R56 writes only RESERVED words with `.cmd` and says nothing of
a legal word there: DESIGN CHOICE, log entry 11: it too is taken as written, so its `K` is the word's, not the literal's. -/
def assemble (line : List Byte) : Option Command :=
  let name := (skipSpaces line).takeWhile (· != 0x20#8)
  let args := skipSpaces ((skipSpaces line).dropWhile (· != 0x20#8))
  if name = ascii ".cmd" then
    match args with
    | z :: x :: h :: l :: sp :: t =>
      if z = 0x30#8 && x = 0x78#8 && sp = 0x20#8 then
        match twoDigits h l, readPayload t with
        | some w, some (_, bs) => some { word := w, input := bs }
        | _, _ => none
      else none
    | _ => none
  else
    match readPayload args with
    | some (k, bs) => (instrNamed name k).map fun i => { word := encode i, input := bs }
    | none => none

/-- Two lowercase hex digits. -/
def writeByte (b : Byte) : List Byte := [(hexPairOf b.toNat).1, (hexPairOf b.toNat).2]

/-- The elements of a byte-buffer literal, separated by single spaces (30_encoding.md R56). -/
def writeBytes : List Byte → List Byte
  | [] => []
  | [b] => writeByte b
  | b :: rest => writeByte b ++ 0x20#8 :: writeBytes rest

/-- One element of a string literal, escaped where it must be (30_encoding.md R56), and where it is not printable. -/
def writeChar (c : Byte) : List Byte :=
  if c = 0x22#8 || c = 0x5C#8 then [0x5C, c]
  else if decide (0x20#8 ≤ c) && decide (c ≤ 0x7E#8) then [c]
  else [0x5C, 0x78] ++ writeByte c

/-- A payload literal (30_encoding.md R56). -/
def writeLiteral (k : Kind) (input : List Byte) : List Byte :=
  match k with
  | .bytes => [0x62, 0x5B] ++ writeBytes input ++ [0x5D]
  | .string => [0x73, 0x22] ++ input.flatMap writeChar ++ [0x22]

/-- The line of a command (30_encoding.md R56); a reserved word in the `.cmd` form. -/
def disassemble (c : Command) : List Byte :=
  match decode c.word with
  | .instr i => ascii i.mnemonic ++ 0x20#8 :: writeLiteral i.kind c.input
  | .reserved _ => ascii ".cmd 0x" ++ writeByte c.word ++ 0x20#8 :: writeLiteral .bytes c.input

end Sys2Proof.Machine
end

