-- ==== Sys2Proof/Safety.lean ====
section
/-! DEFINITION. What a state of a run looks like, in the terms the statements use (10_state.md R15, R18, R19; 30_encoding.md R49). -/

namespace Sys2Proof.Machine

/-- The tables hold the contents of 10_state.md R11, R13 and R14. Of `B64REV` this says only the 64 specified entries. -/
abbrev State.TablesBuilt (s : State) : Prop :=
  (∀ b : Byte, readByByte s.hexlut b = (hexchar (b.toNat / 16), hexchar (b.toNat % 16))) ∧
  (∀ v : Sextet, readBySextet s.b64alpha v = b64char v.toNat) ∧
  (∀ v : Sextet, readByByte s.b64rev (b64char v.toNat) = v)

/-- The output buffer has exactly `OLEN` elements (10_state.md R18, R19). -/
abbrev State.bufferWf (s : State) : Prop := s.obuf.length = s.olen

/-- The response has one of the two shapes of 30_encoding.md R49: a success, or an error with `OKIND` 0, `OLEN` 0 and
`OBUF` empty. -/
abbrev Response.Shaped (r : Response) : Prop :=
  r.olen = r.obuf.length ∧ (r.status = .ok ∨ (r.okind = .bytes ∧ r.olen = 0 ∧ r.obuf = []))

/-- What holds at reset and after every step. -/
structure State.Inv (s : State) : Prop where
  tables : s.TablesBuilt
  shaped : s.response.Shaped
  bounded : withinMaxLen s.params s.olen = true

/-- The payload the command was issued with is within `MAX_LEN` (00_scope.md R8): always, in a build with no bound. -/
abbrev State.inputFits (s : State) : Prop := withinMaxLen s.params s.ibuf.length = true

/-- An output of `n` elements is within `MAX_LEN` (00_scope.md R8): always, in a build with no bound. -/
abbrev State.outputFits (s : State) (n : Nat) : Prop := withinMaxLen s.params n = true

/-- The frame of every command: all but the four response registers is as before (10_state.md R15, R20, R23, R24;
60_exceptions.md R106). -/
structure State.SameButResponse (s t : State) : Prop where
  hexlut : t.hexlut = s.hexlut
  b64alpha : t.b64alpha = s.b64alpha
  b64rev : t.b64rev = s.b64rev
  ibuf : t.ibuf = s.ibuf
  host : t.host = s.host
  params : t.params = s.params

/-- The state after a normal completion with output `out` (10_state.md R20), written out for the statements. -/
def State.afterOk (s : State) (kind : Kind) (out : List Byte) : State :=
  { s with status := .ok, okind := kind, olen := out.length, obuf := out }

/-- The state after an error (60_exceptions.md R106), written out for the statements. -/
def State.afterError (s : State) (e : ErrorKind) : State :=
  { s with status := .error e, okind := .bytes, olen := 0, obuf := [] }

/-- The characters of `s` that are not the dash, code 2D (40_hexcodec.md R62), written out for the statements. -/
def undashed (s : List Byte) : List Byte := s.filter fun c => decide (c ≠ 0x2D#8)

/-- The number of dashes before byte `i` in the UUID form, `d(i)` of 40_hexcodec.md R65. -/
def uuidDashes (i : Nat) : Nat := if i < 4 then 0 else if i < 6 then 1 else if i < 8 then 2 else if i < 10 then 3 else 4

/-- A character of `0-9a-f` (40_hexcodec.md R72). -/
def isLowerHex (c : Byte) : Bool := (0x30 ≤ c.toNat && c.toNat ≤ 0x39) || (0x61 ≤ c.toNat && c.toNat ≤ 0x66)

/-- An `A`-`F` replaced by the `a`-`f` of the same value, anything else as it is (40_hexcodec.md R67). -/
def lowerHex (c : Byte) : Byte := if 0x41 ≤ c.toNat && c.toNat ≤ 0x46 then BitVec.ofNat 8 (c.toNat + 0x20) else c

/-- The 24 bits of the three bytes of group `j` as a number, the first byte most significant (20_memory.md R35). -/
def groupOfBytes (input : List Byte) (j : Nat) : Nat :=
  ((input.getD (3 * j) 0).toNat * 256 + (input.getD (3 * j + 1) 0).toNat) * 256 + (input.getD (3 * j + 2) 0).toNat

/-- The 24 bits of the four characters of group `j` as a number, the first character most significant (20_memory.md R35). -/
def groupOfChars (input : List Byte) (j : Nat) : Nat :=
  ((b64value (input.getD (4 * j) 0) * 64 + b64value (input.getD (4 * j + 1) 0)) * 64 +
    b64value (input.getD (4 * j + 2) 0)) * 64 + b64value (input.getD (4 * j + 3) 0)

/-- The statuses an instruction may end in (60_exceptions.md R111). -/
def allowedStatuses (policy : TailPolicy) : Instr → List Status
  | .hexenc _ => [.ok, .error .typeError, .error .lengthError]
  | .hexencu _ => [.ok, .error .typeError, .error .lengthError]
  | .hexdec _ => [.ok, .error .typeError, .error .lengthError, .error .formatError]
  | .b64enc _ =>
    match policy with
    | .fault => [.ok, .error .typeError, .error .lengthError]
    | .drop => [.ok, .error .typeError]
  | .b64dec _ => [.ok, .error .typeError, .error .formatError]

end Sys2Proof.Machine
end

