-- ==== Sys2Proof/Certificates/Slice0/Obligations.lean ====
section
/-! DEFINITION. The statements for the provers, from the numbered rules of the spec. -/

open Sys2Proof Sys2Proof.Machine

/-! ### The command word and the text -/

/-- 30_encoding.md R47, R50, R54: every instruction has one word, and every legal word one instruction. -/
def Obligations.DecodeAndEncodeAgree : Prop :=
  (∀ i : Instr, i.wellFormed = true → decode (encode i) = .instr i) ∧
  (∀ (w : Byte) (i : Instr), decode w = .instr i → encode i = w)

/-- 30_encoding.md R50: the decoder, written from the fields of R46, selects the rows of the opcode map and no other, with
`K` from `CMD[3]`, and the rows are disjoint. -/
def Obligations.DecoderAgreesWithOpcodeMap : Prop :=
  (∀ (w : Byte) (i : Instr), decode w = .instr i ↔
    (∃ r ∈ opcodeMap, r.mnemonic = i.mnemonic ∧ r.selects w = true) ∧
      i.kind = (if w.getLsbD 3 then Kind.string else Kind.bytes)) ∧
  (∀ w : Byte, (∃ why, decode w = .reserved why) ↔ ∀ r ∈ opcodeMap, r.selects w = false) ∧
  opcodeMap.Pairwise (fun r q => ∀ w : Byte, ¬ (r.selects w = true ∧ q.selects w = true))

/-- 30_encoding.md R50, its columns "canonical word" and "word with the other K", and reserved words of R51. -/
def Obligations.WordsOfTheOpcodeMapDecode : Prop :=
  decode 0x00 = .instr (.hexenc .bytes) ∧ decode 0x08 = .instr (.hexenc .string) ∧
  decode 0x04 = .instr (.hexencu .bytes) ∧ decode 0x0C = .instr (.hexencu .string) ∧
  decode 0x09 = .instr (.hexdec .string) ∧ decode 0x01 = .instr (.hexdec .bytes) ∧
  decode 0x02 = .instr (.b64enc .bytes) ∧ decode 0x0A = .instr (.b64enc .string) ∧
  decode 0x0B = .instr (.b64dec .string) ∧ decode 0x03 = .instr (.b64dec .bytes) ∧
  decode 0x05 = .reserved .uuidFlag ∧ decode 0x10 = .reserved .highBits

/-- From 30_encoding.md R51: which words are reserved, that they are 246, and that the step of a command with one raises
`IllegalCommand`, whatever a payload within `MAX_LEN` holds. That the step leaves the payload in `ibuf` and takes the command
from the host's list, and that a payload beyond `MAX_LEN` is left out here because it is refused, is the model's choice (log
entries 1, 3 and 5). -/
def Obligations.ReservedWordsRaiseIllegalCommand : Prop :=
  (∀ w : Byte, (∃ why, decode w = .reserved why) ↔
    (w.toNat / 16 ≠ 0 ∨ w ∈ [0x05#8, 0x06#8, 0x07#8, 0x0D#8, 0x0E#8, 0x0F#8])) ∧
  ((List.range 256).filter fun n => (decodeTableWord 8 n).isNone).length = 246 ∧
  (∀ (s : State) (c : Command) (rest : List HostEvent) (why : Reserved), s.host = .issue c :: rest →
    decode c.word = .reserved why → withinMaxLen s.params c.input.length = true →
    step s = .next ({ s with ibuf := c.input, host := rest }.afterError .illegalCommand))

/-- 30_encoding.md R56: a command written as a line reads back as that command, whatever its word and payload, with
anything after it that ends the line: spaces and a comment. The canonical spelling written is the model's choice (log
entry 11). -/
def Obligations.AssemblyReadsBackDisassembly : Prop :=
  ∀ (c : Command) (tail : List Byte), endsLine tail = true → assemble (disassemble c ++ tail) = some c

/-! ### The step -/

/-- 10_state.md R22, 30_encoding.md R50: a step runs the decoded instruction on the state with the command's payload as
input and the command taken from the host's list (log entries 1 and 3). -/
def Obligations.StepRunsTheDecodedInstruction : Prop :=
  ∀ (s : State) (c : Command) (rest : List HostEvent) (i : Instr), s.host = .issue c :: rest →
    decode c.word = .instr i → step s = exec i { s with ibuf := c.input, host := rest }

/-- 60_exceptions.md R117: between commands the block is idle with all state retained. That idling is a step is the model's
choice (log entry 2). -/
def Obligations.IdleStepRetainsState : Prop :=
  ∀ s : State, s.host = [] → step s = .next s

/-- 70_reset_and_hazards.md R120, R122, R124, 10_state.md R27: a reset, with or without a command in progress, leaves the
tables built and the response registers `(0, 0, 0, [])` whatever they held; the build's parameters and what the host
does next stay. The reset as a host event, and that an abandoned command beyond `MAX_LEN` is not refused, are the
model's choices (log entry 8). -/
def Obligations.ResetStepGivesResetValues : Prop :=
  ∀ (s : State) (abandoned : Option Command) (rest : List HostEvent), s.host = .reset abandoned :: rest →
    ∃ t, step s = .next t ∧ t.TablesBuilt ∧ t.response = { status := .ok, okind := .bytes, olen := 0, obuf := [] } ∧
      t.params = s.params ∧ t.host = rest

/-- 10_state.md R23, R24: no step changes the build's parameters, and a step takes at most the first thing the host
does. The host's list is the model's choice (log entry 1). -/
def Obligations.StepKeepsParametersAndHostOrder : Prop :=
  ∀ s t : State, step s = .next t → t.params = s.params ∧ t.host = s.host.tail

/-- 60_exceptions.md R116, 70_reset_and_hazards.md R129: in a build with no bound on lengths every step answers a next
state. -/
def Obligations.EveryStepCompletesWithoutBound : Prop :=
  ∀ s : State, s.params.maxLen = none → ∃ t, step s = .next t

/-- 00_scope.md R8: a build with a bound refuses a command whose input or output exceeds it, and otherwise does exactly
what the build without a bound does. What the bound counts, and that the refusal comes before any other outcome, is the
model's choice (log entry 5). -/
def Obligations.BoundedBuildRefusesAndNeverTruncates : Prop :=
  ∀ (i : Instr) (s : State) (m : Nat), s.params.maxLen = some m →
    ∃ t, exec i { s with params := { s.params with maxLen := none } } = .next t ∧
      (s.ibuf.length ≤ m ∧ t.olen ≤ m → exec i s = .next { t with params := s.params }) ∧
      (m < s.ibuf.length ∨ m < t.olen → exec i s = .refused .exceedsMaxLen)

/-! ### Reset and the tables -/

/-- 10_state.md R27: the state after reset. -/
def Obligations.ResetState : Prop :=
  (∀ b : Byte, readByByte State.reset.hexlut b = (hexchar (b.toNat / 16), hexchar (b.toNat % 16))) ∧
  (∀ v : Sextet, readBySextet State.reset.b64alpha v = b64char v.toNat) ∧
  (∀ v : Sextet, readByByte State.reset.b64rev (b64char v.toNat) = v) ∧
  State.reset.status = .ok ∧ State.reset.okind = .bytes ∧ State.reset.olen = 0 ∧ State.reset.obuf = []

/-- 10_state.md R12: the digit of a nibble value. -/
def Obligations.HexcharIsTheLowercaseDigit : Prop :=
  ∀ d : Nat, (d ≤ 9 → hexchar d = BitVec.ofNat 8 (0x30 + d)) ∧
    (10 ≤ d → d ≤ 15 → hexchar d = BitVec.ofNat 8 (0x61 + (d - 10)))

/-- 10_state.md R13: the closed form of the alphabet reset leaves, and that its entries are distinct. -/
def Obligations.AlphabetInClosedForm : Prop :=
  (∀ v : Sextet, (readBySextet State.reset.b64alpha v).toNat =
    if v.toNat ≤ 25 then 0x41 + v.toNat
    else if v.toNat ≤ 51 then 0x61 + (v.toNat - 26)
    else if v.toNat ≤ 61 then 0x30 + (v.toNat - 52)
    else if v.toNat = 62 then 0x2D else 0x5F) ∧
  (∀ v w : Sextet, readBySextet State.reset.b64alpha v = readBySextet State.reset.b64alpha w → v = w)

/-- 10_state.md R14: the closed form of the specified entries of the reverse table reset leaves, and that it inverts the
alphabet. Nothing is said of the other entries. -/
def Obligations.ReverseTableInvertsTheAlphabet : Prop :=
  (∀ v : Sextet, readByByte State.reset.b64rev (readBySextet State.reset.b64alpha v) = v) ∧
  (∀ c : Byte,
    (0x41 ≤ c.toNat → c.toNat ≤ 0x5A → (readByByte State.reset.b64rev c).toNat = c.toNat - 0x41) ∧
    (0x61 ≤ c.toNat → c.toNat ≤ 0x7A → (readByByte State.reset.b64rev c).toNat = c.toNat - 0x61 + 26) ∧
    (0x30 ≤ c.toNat → c.toNat ≤ 0x39 → (readByByte State.reset.b64rev c).toNat = c.toNat - 0x30 + 52) ∧
    (c.toNat = 0x2D → (readByByte State.reset.b64rev c).toNat = 62) ∧
    (c.toNat = 0x5F → (readByByte State.reset.b64rev c).toNat = 63))

/-- 40_hexcodec.md R61: the value of a hex digit of either case, and that it inverts the digit. -/
def Obligations.HexvalOfEitherCase : Prop :=
  (∀ c : Byte,
    (0x30 ≤ c.toNat → c.toNat ≤ 0x39 → isHex c = true ∧ hexval c = c.toNat - 0x30) ∧
    (0x61 ≤ c.toNat → c.toNat ≤ 0x66 → isHex c = true ∧ hexval c = c.toNat - 0x61 + 10) ∧
    (0x41 ≤ c.toNat → c.toNat ≤ 0x46 → isHex c = true ∧ hexval c = c.toNat - 0x41 + 10)) ∧
  (∀ d : Nat, d ≤ 15 → isHex (hexchar d) = true ∧ hexval (hexchar d) = d)

/-! ### HexCodec -/

/-- 40_hexcodec.md R63: `HEXENC`, its words, each outcome with all the rest of the state as it was, and its 32 characters. -/
def Obligations.HexencMeaning : Prop :=
  decode 0x00 = .instr (.hexenc .bytes) ∧ decode 0x08 = .instr (.hexenc .string) ∧
  ∀ s : State, s.TablesBuilt → s.inputFits →
    exec (.hexenc .string) s = .next (s.afterError .typeError) ∧
    (s.ibuf.length ≠ 16 → exec (.hexenc .bytes) s = .next (s.afterError .lengthError)) ∧
    (s.ibuf.length = 16 → s.outputFits 32 →
      ∃ out, exec (.hexenc .bytes) s = .next (s.afterOk .string out) ∧ out.length = 32 ∧
        (∀ i < 16, out[2 * i]? = some (hexchar ((s.ibuf.getD i 0).toNat / 16)) ∧
          out[2 * i + 1]? = some (hexchar ((s.ibuf.getD i 0).toNat % 16))) ∧
        ∀ c ∈ out, isLowerHex c = true)

/-- 40_hexcodec.md R64, R65: `HEXENCU`, its words, each outcome with all the rest of the state as it was, its 36 characters
and where its dashes stand. -/
def Obligations.HexencuMeaning : Prop :=
  decode 0x04 = .instr (.hexencu .bytes) ∧ decode 0x0C = .instr (.hexencu .string) ∧
  ∀ s : State, s.TablesBuilt → s.inputFits →
    exec (.hexencu .string) s = .next (s.afterError .typeError) ∧
    (s.ibuf.length ≠ 16 → exec (.hexencu .bytes) s = .next (s.afterError .lengthError)) ∧
    (s.ibuf.length = 16 → s.outputFits 36 →
      ∃ out, exec (.hexencu .bytes) s = .next (s.afterOk .string out) ∧ out.length = 36 ∧
        (∀ i < 16, out[2 * i + uuidDashes i]? = some (hexchar ((s.ibuf.getD i 0).toNat / 16)) ∧
          out[2 * i + uuidDashes i + 1]? = some (hexchar ((s.ibuf.getD i 0).toNat % 16))) ∧
        ∀ j < 36, (out[j]? = some 0x2D ↔ j = 8 ∨ j = 13 ∨ j = 18 ∨ j = 23))

/-- 40_hexcodec.md R65: deleting the dashes of the `HEXENCU` output gives the `HEXENC` output. -/
def Obligations.UndashedUuidIsThePlainForm : Prop :=
  ∀ s t u : State, s.TablesBuilt → exec (.hexenc .bytes) s = .next t → exec (.hexencu .bytes) s = .next u →
    undashed u.obuf = t.obuf ∧ u.status = t.status

/-- 40_hexcodec.md R66, R62, R70, 60_exceptions.md R104: `HEXDEC`, its words, each outcome with all the rest of the state as
it was, the order of its checks, and its bytes, high nibble first. -/
def Obligations.HexdecMeaning : Prop :=
  decode 0x09 = .instr (.hexdec .string) ∧ decode 0x01 = .instr (.hexdec .bytes) ∧
  ∀ s : State, s.inputFits →
    exec (.hexdec .bytes) s = .next (s.afterError .typeError) ∧
    ((undashed s.ibuf).length % 2 = 1 → exec (.hexdec .string) s = .next (s.afterError .lengthError)) ∧
    ((undashed s.ibuf).length % 2 = 0 → (∃ c ∈ undashed s.ibuf, isHex c = false) →
      exec (.hexdec .string) s = .next (s.afterError .formatError)) ∧
    ((undashed s.ibuf).length % 2 = 0 → (∀ c ∈ undashed s.ibuf, isHex c = true) →
      s.outputFits ((undashed s.ibuf).length / 2) →
      ∃ out, exec (.hexdec .string) s = .next (s.afterOk .bytes out) ∧ out.length = (undashed s.ibuf).length / 2 ∧
        ∀ j < (undashed s.ibuf).length / 2, (out[j]?).map BitVec.toNat =
          some (hexval ((undashed s.ibuf).getD (2 * j) 0) * 16 + hexval ((undashed s.ibuf).getD (2 * j + 1) 0)))

/-- 40_hexcodec.md R67: encoding a decoded 16-byte value gives the digits again, in lower case. -/
def Obligations.ReencodingLowersCase : Prop :=
  ∀ s t s' : State, exec (.hexdec .string) s = .next t → t.status = .ok → t.obuf.length = 16 →
    s'.TablesBuilt → s'.ibuf = t.obuf → s'.inputFits → s'.outputFits 32 →
    exec (.hexenc .bytes) s' = .next (s'.afterOk .string ((undashed s.ibuf).map lowerHex))

/-- 40_hexcodec.md R68: the round trip of the plain form. -/
def Obligations.HexPlainRoundTrip : Prop :=
  ∀ s t s' : State, s.TablesBuilt → exec (.hexenc .bytes) s = .next t → t.status = .ok →
    s'.ibuf = t.obuf → s'.inputFits → s'.outputFits 16 →
    exec (.hexdec .string) s' = .next (s'.afterOk .bytes s.ibuf)

/-- 40_hexcodec.md R69: the round trip of the UUID form. -/
def Obligations.HexUuidRoundTrip : Prop :=
  ∀ s t s' : State, s.TablesBuilt → exec (.hexencu .bytes) s = .next t → t.status = .ok →
    s'.ibuf = t.obuf → s'.inputFits → s'.outputFits 16 →
    exec (.hexdec .string) s' = .next (s'.afterOk .bytes s.ibuf)

/-- 40_hexcodec.md R71: strings that differ only in dashes have the same response. -/
def Obligations.HexdecIgnoresDashes : Prop :=
  ∀ s s' t t' : State, undashed s.ibuf = undashed s'.ibuf → exec (.hexdec .string) s = .next t →
    exec (.hexdec .string) s' = .next t' → t.response = t'.response

/-- 40_hexcodec.md R72: the wire format of hex output. -/
def Obligations.HexWireFormat : Prop :=
  (∀ s t : State, s.TablesBuilt → exec (.hexenc .bytes) s = .next t → t.status = .ok →
    t.obuf.length = 32 ∧ ∀ c ∈ t.obuf, isLowerHex c = true) ∧
  (∀ s t : State, s.TablesBuilt → exec (.hexencu .bytes) s = .next t → t.status = .ok →
    t.obuf.length = 36 ∧
      ∀ j < 36, if j = 8 ∨ j = 13 ∨ j = 18 ∨ j = 23 then t.obuf[j]? = some 0x2D
        else (t.obuf[j]?).map isLowerHex = some true)

/-! ### Base64Codec -/

/-- 41_base64codec.md R81, R87: each regroups the bits of the other, so they are mutually inverse. -/
def Obligations.PackAndUnpackAreInverse : Prop :=
  (∀ b1 b2 b3 : Byte, unpack4 (pack3 b1 b2 b3).1 (pack3 b1 b2 b3).2.1 (pack3 b1 b2 b3).2.2.1 (pack3 b1 b2 b3).2.2.2 =
    (b1, b2, b3)) ∧
  (∀ v0 v1 v2 v3 : Sextet,
    pack3 (unpack4 v0 v1 v2 v3).1 (unpack4 v0 v1 v2 v3).2.1 (unpack4 v0 v1 v2 v3).2.2 = (v0, v1, v2, v3))

/-- 20_memory.md R35: both conversions keep the 24 bits of a group, most significant first. -/
def Obligations.GroupsKeepTheirBits : Prop :=
  (∀ b1 b2 b3 : Byte, ((pack3 b1 b2 b3).1 ++ (pack3 b1 b2 b3).2.1 ++ (pack3 b1 b2 b3).2.2.1 ++ (pack3 b1 b2 b3).2.2.2 :
    BitVec 24) = (b1 ++ b2 ++ b3 : BitVec 24)) ∧
  (∀ v0 v1 v2 v3 : Sextet, ((unpack4 v0 v1 v2 v3).1 ++ (unpack4 v0 v1 v2 v3).2.1 ++ (unpack4 v0 v1 v2 v3).2.2 :
    BitVec 24) = (v0 ++ v1 ++ v2 ++ v3 : BitVec 24))

/-- 41_base64codec.md R82, R83, R84: `B64ENC`, its words, each outcome with all the rest of the state as it was, under both
tail policies, and the four characters of each whole group. -/
def Obligations.B64encMeaning : Prop :=
  decode 0x02 = .instr (.b64enc .bytes) ∧ decode 0x0A = .instr (.b64enc .string) ∧
  ∀ s : State, s.TablesBuilt → s.inputFits →
    exec (.b64enc .string) s = .next (s.afterError .typeError) ∧
    (s.ibuf.length % 3 ≠ 0 → s.params.tailPolicy = .fault →
      exec (.b64enc .bytes) s = .next (s.afterError .lengthError)) ∧
    (s.ibuf.length % 3 = 0 ∨ s.params.tailPolicy = .drop → s.outputFits (4 * (s.ibuf.length / 3)) →
      ∃ out, exec (.b64enc .bytes) s = .next (s.afterOk .string out) ∧ out.length = 4 * (s.ibuf.length / 3) ∧
        ∀ j < s.ibuf.length / 3,
          out[4 * j]? = some (b64char (groupOfBytes s.ibuf j / 262144)) ∧
          out[4 * j + 1]? = some (b64char (groupOfBytes s.ibuf j / 4096 % 64)) ∧
          out[4 * j + 2]? = some (b64char (groupOfBytes s.ibuf j / 64 % 64)) ∧
          out[4 * j + 3]? = some (b64char (groupOfBytes s.ibuf j % 64)))

/-- 41_base64codec.md R83: under `DROP` the tail has no effect on the response. -/
def Obligations.DropIgnoresTheTail : Prop :=
  ∀ s : State, s.params.tailPolicy = .drop → s.inputFits → s.outputFits (4 * (s.ibuf.length / 3)) →
    ∃ out, exec (.b64enc .bytes) s = .next (s.afterOk .string out) ∧ out.length = 4 * (s.ibuf.length / 3) ∧
      exec (.b64enc .bytes) { s with ibuf := s.ibuf.take (3 * (s.ibuf.length / 3)) } =
        .next ({ s with ibuf := s.ibuf.take (3 * (s.ibuf.length / 3)) }.afterOk .string out)

/-- 41_base64codec.md R84: the policy `FAULT` raises `LengthError` on a tail, and without a tail the policies agree. -/
def Obligations.FaultRejectsTheTail : Prop :=
  (∀ s : State, s.params.tailPolicy = .fault → s.inputFits → s.ibuf.length % 3 ≠ 0 →
    exec (.b64enc .bytes) s = .next (s.afterError .lengthError)) ∧
  (∀ (s t : State) (p : TailPolicy), s.ibuf.length % 3 = 0 → exec (.b64enc .bytes) s = .next t →
    exec (.b64enc .bytes) { s with params := { s.params with tailPolicy := p } } =
      .next { t with params := { s.params with tailPolicy := p } })

/-- 41_base64codec.md R85: `B64DEC`, its words, each outcome with all the rest of the state as it was, and the three bytes
of each group. -/
def Obligations.B64decMeaning : Prop :=
  decode 0x0B = .instr (.b64dec .string) ∧ decode 0x03 = .instr (.b64dec .bytes) ∧
  ∀ s : State, s.TablesBuilt → s.inputFits →
    exec (.b64dec .bytes) s = .next (s.afterError .typeError) ∧
    (s.ibuf.length % 4 ≠ 0 ∨ (∃ c ∈ s.ibuf, isB64 c = false) →
      exec (.b64dec .string) s = .next (s.afterError .formatError)) ∧
    (s.ibuf.length % 4 = 0 → (∀ c ∈ s.ibuf, isB64 c = true) → s.outputFits (3 * (s.ibuf.length / 4)) →
      ∃ out, exec (.b64dec .string) s = .next (s.afterOk .bytes out) ∧ out.length = 3 * (s.ibuf.length / 4) ∧
        ∀ j < s.ibuf.length / 4,
          (out[3 * j]?).map BitVec.toNat = some (groupOfChars s.ibuf j / 65536) ∧
          (out[3 * j + 1]?).map BitVec.toNat = some (groupOfChars s.ibuf j / 256 % 256) ∧
          (out[3 * j + 2]?).map BitVec.toNat = some (groupOfChars s.ibuf j % 256))

/-- 41_base64codec.md R86: what `B64REV` holds outside the alphabet influences no response. -/
def Obligations.B64decNeverReadsOutsideTheAlphabet : Prop :=
  ∀ (s t : State) (rev : Vector Sextet 256) (k : Kind),
    (∀ c : Byte, isB64 c = true → readByByte rev c = readByByte s.b64rev c) →
    exec (.b64dec k) s = .next t → exec (.b64dec k) { s with b64rev := rev } = .next { t with b64rev := rev }

/-- 41_base64codec.md R88: decoding an encoded buffer gives it back, and under `DROP` with a tail its whole groups. -/
def Obligations.Base64RoundTrip : Prop :=
  ∀ s t s' : State, s.TablesBuilt → exec (.b64enc .bytes) s = .next t → t.status = .ok →
    s'.TablesBuilt → s'.ibuf = t.obuf → s'.inputFits → s'.outputFits (3 * (s.ibuf.length / 3)) →
    exec (.b64dec .string) s' = .next (s'.afterOk .bytes (s.ibuf.take (3 * (s.ibuf.length / 3)))) ∧
    (s.ibuf.length % 3 = 0 → exec (.b64dec .string) s' = .next (s'.afterOk .bytes s.ibuf))

/-- 41_base64codec.md R89: encoding a decoded string gives it back. -/
def Obligations.Base64ConverseRoundTrip : Prop :=
  ∀ s t s' : State, s.TablesBuilt → exec (.b64dec .string) s = .next t → t.status = .ok →
    s'.TablesBuilt → s'.ibuf = t.obuf → s'.inputFits → s'.outputFits s.ibuf.length →
    exec (.b64enc .bytes) s' = .next (s'.afterOk .string s.ibuf)

/-- 41_base64codec.md R90: the wire format of base64 output: four characters of the alphabet for each whole group. -/
def Obligations.Base64WireFormat : Prop :=
  ∀ s t : State, s.TablesBuilt → exec (.b64enc .bytes) s = .next t → t.status = .ok →
    t.obuf.length = 4 * (s.ibuf.length / 3) ∧ (∀ c ∈ t.obuf, ∃ v : Sextet, c = b64char v.toNat) ∧
    ∀ c ∈ t.obuf, c ≠ 0x3D ∧ c ≠ 0x2B ∧ c ≠ 0x2F ∧ c ≠ 0x20 ∧ c ≠ 0x0A

/-- 41_base64codec.md R91: the two fixed points the source gives. -/
def Obligations.Base64FixedPoints : Prop :=
  ∀ s : State, s.TablesBuilt → s.inputFits → s.outputFits 4 →
    (s.ibuf = [0, 0, 0] → exec (.b64enc .bytes) s = .next (s.afterOk .string [0x41, 0x41, 0x41, 0x41])) ∧
    (s.ibuf = [255, 255, 255] → exec (.b64enc .bytes) s = .next (s.afterOk .string [0x5F, 0x5F, 0x5F, 0x5F]))

/-! ### Errors and the status register -/

/-- 60_exceptions.md R100: the codes of `STATUS`; the codes 5, 6 and 7 stand for no status. -/
def Obligations.StatusCodes : Prop :=
  Status.code .ok = 0 ∧ Status.code (.error .typeError) = 1 ∧ Status.code (.error .lengthError) = 2 ∧
  Status.code (.error .formatError) = 3 ∧ Status.code (.error .illegalCommand) = 4 ∧
  ∀ st : Status, st.code.toNat < 5

/-- 30_encoding.md R52: a payload of the wrong kind raises `TypeError` in every instruction, whatever the payload holds. -/
def Obligations.WrongKindRaisesTypeError : Prop :=
  (∀ k, expectedKind (.hexenc k) = .bytes ∧ expectedKind (.hexencu k) = .bytes ∧ expectedKind (.b64enc k) = .bytes ∧
    expectedKind (.hexdec k) = .string ∧ expectedKind (.b64dec k) = .string) ∧
  ∀ (i : Instr) (s : State), s.inputFits → i.kind ≠ expectedKind i → exec i s = .next (s.afterError .typeError)

/-- 60_exceptions.md R101: nothing else raises `TypeError`. -/
def Obligations.TypeErrorExactlyOnWrongKind : Prop :=
  ∀ (i : Instr) (s t : State), exec i s = .next t → (t.status = .error .typeError ↔ i.kind ≠ expectedKind i)

/-- 60_exceptions.md R102: the exact cases of `LengthError`. -/
def Obligations.LengthErrorExactly : Prop :=
  ∀ (i : Instr) (s t : State), exec i s = .next t →
    (t.status = .error .lengthError ↔ i.kind = expectedKind i ∧
      match i with
      | .hexenc _ => s.ibuf.length ≠ 16
      | .hexencu _ => s.ibuf.length ≠ 16
      | .hexdec _ => (undashed s.ibuf).length % 2 = 1
      | .b64enc _ => s.ibuf.length % 3 ≠ 0 ∧ s.params.tailPolicy = .fault
      | .b64dec _ => False)

/-- 60_exceptions.md R103: the exact cases of `FormatError`. -/
def Obligations.FormatErrorExactly : Prop :=
  ∀ (i : Instr) (s t : State), exec i s = .next t →
    (t.status = .error .formatError ↔ i.kind = expectedKind i ∧
      match i with
      | .hexenc _ => False
      | .hexencu _ => False
      | .hexdec _ => (undashed s.ibuf).length % 2 = 0 ∧ ∃ c ∈ undashed s.ibuf, isHex c = false
      | .b64enc _ => False
      | .b64dec _ => s.ibuf.length % 4 ≠ 0 ∨ ∃ c ∈ s.ibuf, isB64 c = false)

/-- 60_exceptions.md R105: `IllegalCommand` exactly on a reserved word, whatever the payload. -/
def Obligations.IllegalCommandExactlyOnReservedWords : Prop :=
  ∀ (s t : State) (c : Command) (rest : List HostEvent), s.host = .issue c :: rest → step s = .next t →
    (t.status = .error .illegalCommand ↔ ∃ why, decode c.word = .reserved why)

/-- 60_exceptions.md R111: an instruction ends in none but its statuses, and under either policy in each of them, from a
state with the tables built. -/
def Obligations.StatusesOfEachInstruction : Prop :=
  (∀ (i : Instr) (s t : State), exec i s = .next t → t.status ∈ allowedStatuses s.params.tailPolicy i) ∧
  (∀ (i : Instr) (policy : TailPolicy), ∀ st ∈ allowedStatuses policy i,
    ∃ (j : Instr) (s t : State), j.mnemonic = i.mnemonic ∧ s.TablesBuilt ∧ s.params.tailPolicy = policy ∧
      exec j s = .next t ∧ t.status = st)

/-- 30_encoding.md R49: the two shapes of a response, for instructions and reserved words alike. -/
def Obligations.ResponseHasOneOfTwoShapes : Prop :=
  ∀ (s t : State) (c : Command) (rest : List HostEvent), s.host = .issue c :: rest → step s = .next t →
    (t.status = .ok ∧ t.olen = t.obuf.length) ∨
    (t.status ≠ .ok ∧ t.okind = .bytes ∧ t.olen = 0 ∧ t.obuf = [])

/-- 10_state.md R17: the kind of an output: string from an encode, bytes from a decode. -/
def Obligations.OutputKindOfEachInstruction : Prop :=
  ∀ (i : Instr) (s t : State), exec i s = .next t →
    t.okind = if t.status = .ok then
        (match i with
        | .hexenc _ => Kind.string
        | .hexencu _ => Kind.string
        | .hexdec _ => Kind.bytes
        | .b64enc _ => Kind.string
        | .b64dec _ => Kind.bytes)
      else Kind.bytes

/-! ### The whole machine -/

/-- 10_state.md R15, R20, R24, 20_memory.md R38, 60_exceptions.md R106: the frame of every instruction: the tables, the
payload, the build's parameters and what the host does next are as before. -/
def Obligations.CommandsChangeOnlyTheResponse : Prop :=
  ∀ (i : Instr) (s t : State), exec i s = .next t → s.SameButResponse t

/-- 10_state.md R15, R19, R27, 30_encoding.md R49: every step keeps the invariant: tables built, response of one of the two
shapes, output within the build's bound. -/
def Obligations.EveryStepKeepsTheInvariant : Prop :=
  ∀ s t : State, s.Inv → step s = .next t → t.Inv

/-- 10_state.md R27: the invariant holds after reset. -/
def Obligations.ResetMeetsTheInvariant : Prop := State.reset.Inv

/-- 10_state.md R25: the response is a function of the command word, the payload and the parameters only. -/
def Obligations.ResponseDependsOnTheCommandAlone : Prop :=
  ∀ (s s' t t' : State) (c : Command) (rest rest' : List HostEvent), s.TablesBuilt → s'.TablesBuilt →
    s.params = s'.params → s.host = .issue c :: rest → s'.host = .issue c :: rest' → step s = .next t →
    step s' = .next t' → t.response = t'.response

/-- 30_encoding.md R57, 10_state.md R25, 20_memory.md R40: the observation of a run of any length, from any state with the
tables built, is for each command the response it gives as the first command after reset. Stated for a build with no
bound (log entry 5). -/
def Obligations.RunObservesEachCommandAlone : Prop :=
  ∀ p : Params, p.maxLen = none → ∃ answer : Command → Response,
    (∀ c, responses [c] { State.reset with params := p } = some [answer c]) ∧
    ∀ (commands : List Command) (s : State), s.TablesBuilt → s.params = p →
      responses commands s = some (commands.map answer)

/-- 10_state.md R19: the host can read exactly the elements below `OLEN`; that another read is refused is
93_implementation_defined.md V5, in the model's form (log entry 12). -/
def Obligations.HostReadsExactlyTheOutput : Prop :=
  ∀ s : State, s.Inv →
    (∀ j < s.olen, ∃ b, s.obuf[j]? = some b ∧ readObuf s j = .next b) ∧
    (∀ j, s.olen ≤ j → readObuf s j = .refused .outputElementAbsent)
end

