-- ==== Sys2Proof/Laws/Assembly.lean ====
section
/-! SUPPORT. The one-step equations of the readers of payload literals. -/

namespace Sys2Proof.Machine

@[simp] theorem readBytes_close (spaced : Bool) (t : List Byte) : readBytes spaced (0x5D#8 :: t) = some ([], t) := by
  cases t <;> simp [readBytes]

@[simp] theorem readBytes_space (spaced : Bool) (t : List Byte) : readBytes spaced (0x20#8 :: t) = readBytes true t := by
  cases t <;> simp [readBytes]

/-- A value, where one may start. -/
theorem readBytes_value {h l b : Byte} (t : List Byte) (hb : twoDigits h l = some b) (h1 : h ≠ 0x5D#8) (h2 : h ≠ 0x20#8) :
    readBytes true (h :: l :: t) = (readBytes false t).map fun r => (b :: r.1, r.2) := by
  simp only [readBytes, h1, h2, hb, if_false, if_true]
  cases readBytes false t <;> rfl

@[simp] theorem readString_close (t : List Byte) : readString (0x22#8 :: t) = some ([], t) := by
  rcases t with _ | ⟨a, _ | ⟨b, _ | ⟨c, t⟩⟩⟩ <;> simp [readString]

/-- A character that stands for itself. -/
theorem readString_plain {c : Byte} (t : List Byte) (h1 : c ≠ 0x22#8) (h2 : c ≠ 0x0A#8) (h3 : c ≠ 0x5C#8) :
    readString (c :: t) = (readString t).map fun r => (c :: r.1, r.2) := by
  rcases t with _ | ⟨a, _ | ⟨b, _ | ⟨d, t⟩⟩⟩ <;> simp [readString, h1, h2, h3]

/-- An escaped quote or backslash. -/
theorem readString_escape {c : Byte} (t : List Byte) (h : c = 0x22#8 ∨ c = 0x5C#8) :
    readString (0x5C#8 :: c :: t) = (readString t).map fun r => (c :: r.1, r.2) := by
  rcases t with _ | ⟨a, _ | ⟨b, t⟩⟩ <;> rcases h with rfl | rfl <;> simp [readString]

/-- A code in hex digits. -/
theorem readString_code {h l b : Byte} (t : List Byte) (hb : twoDigits h l = some b) :
    readString (0x5C#8 :: 0x78#8 :: h :: l :: t) = (readString t).map fun r => (b :: r.1, r.2) := by
  simp [readString, hb]
  cases readString t <;> rfl

/-- The two digits written for a byte read back as it, and the first of them is no punctuation. -/
theorem twoDigits_hexPairOf : ∀ b : Byte, twoDigits (hexPairOf b.toNat).1 (hexPairOf b.toNat).2 = some b ∧
    (hexPairOf b.toNat).1 ≠ 0x5D#8 ∧ (hexPairOf b.toNat).1 ≠ 0x20#8 := by decide +kernel

end Sys2Proof.Machine
end

