-- ==== Sys2Proof/Laws/State.lean ====
section
/-! SUPPORT. One lemma per field per update of State, so that no proof unfolds a record update. -/

namespace Sys2Proof.Machine

@[simp] theorem withResponse_hexlut (s : State) (r : Response) : (s.withResponse r).hexlut = s.hexlut := rfl
@[simp] theorem withResponse_b64alpha (s : State) (r : Response) : (s.withResponse r).b64alpha = s.b64alpha := rfl
@[simp] theorem withResponse_b64rev (s : State) (r : Response) : (s.withResponse r).b64rev = s.b64rev := rfl
@[simp] theorem withResponse_status (s : State) (r : Response) : (s.withResponse r).status = r.status := rfl
@[simp] theorem withResponse_okind (s : State) (r : Response) : (s.withResponse r).okind = r.okind := rfl
@[simp] theorem withResponse_olen (s : State) (r : Response) : (s.withResponse r).olen = r.olen := rfl
@[simp] theorem withResponse_obuf (s : State) (r : Response) : (s.withResponse r).obuf = r.obuf := rfl
@[simp] theorem withResponse_ibuf (s : State) (r : Response) : (s.withResponse r).ibuf = s.ibuf := rfl
@[simp] theorem withResponse_host (s : State) (r : Response) : (s.withResponse r).host = s.host := rfl
@[simp] theorem withResponse_params (s : State) (r : Response) : (s.withResponse r).params = s.params := rfl
@[simp] theorem withResponse_response (s : State) (r : Response) : (s.withResponse r).response = r := rfl

@[simp] theorem accept_hexlut (s : State) (c : Command) (es : List HostEvent) : (s.accept c es).hexlut = s.hexlut := rfl
@[simp] theorem accept_b64alpha (s : State) (c : Command) (es : List HostEvent) :
    (s.accept c es).b64alpha = s.b64alpha := rfl
@[simp] theorem accept_b64rev (s : State) (c : Command) (es : List HostEvent) : (s.accept c es).b64rev = s.b64rev := rfl
@[simp] theorem accept_status (s : State) (c : Command) (es : List HostEvent) : (s.accept c es).status = s.status := rfl
@[simp] theorem accept_okind (s : State) (c : Command) (es : List HostEvent) : (s.accept c es).okind = s.okind := rfl
@[simp] theorem accept_olen (s : State) (c : Command) (es : List HostEvent) : (s.accept c es).olen = s.olen := rfl
@[simp] theorem accept_obuf (s : State) (c : Command) (es : List HostEvent) : (s.accept c es).obuf = s.obuf := rfl
@[simp] theorem accept_ibuf (s : State) (c : Command) (es : List HostEvent) : (s.accept c es).ibuf = c.input := rfl
@[simp] theorem accept_host (s : State) (c : Command) (es : List HostEvent) : (s.accept c es).host = es := rfl
@[simp] theorem accept_params (s : State) (c : Command) (es : List HostEvent) : (s.accept c es).params = s.params := rfl
@[simp] theorem accept_response (s : State) (c : Command) (es : List HostEvent) :
    (s.accept c es).response = s.response := rfl

@[simp] theorem resetBlock_hexlut (s : State) : s.resetBlock.hexlut = hexlutContents := rfl
@[simp] theorem resetBlock_b64alpha (s : State) : s.resetBlock.b64alpha = b64alphaContents := rfl
@[simp] theorem resetBlock_b64rev (s : State) : s.resetBlock.b64rev = b64revContents := rfl
@[simp] theorem resetBlock_response (s : State) : s.resetBlock.response = done .bytes [] := rfl
@[simp] theorem resetBlock_olen (s : State) : s.resetBlock.olen = 0 := rfl
@[simp] theorem resetBlock_ibuf (s : State) : s.resetBlock.ibuf = s.ibuf := rfl
@[simp] theorem resetBlock_host (s : State) : s.resetBlock.host = s.host := rfl
@[simp] theorem resetBlock_params (s : State) : s.resetBlock.params = s.params := rfl

@[simp] theorem issue_hexlut (s : State) (c : Command) : (s.issue c).hexlut = s.hexlut := rfl
@[simp] theorem issue_b64alpha (s : State) (c : Command) : (s.issue c).b64alpha = s.b64alpha := rfl
@[simp] theorem issue_b64rev (s : State) (c : Command) : (s.issue c).b64rev = s.b64rev := rfl
@[simp] theorem issue_host (s : State) (c : Command) : (s.issue c).host = [.issue c] := rfl
@[simp] theorem issue_ibuf (s : State) (c : Command) : (s.issue c).ibuf = s.ibuf := rfl
@[simp] theorem issue_params (s : State) (c : Command) : (s.issue c).params = s.params := rfl
@[simp] theorem issue_response (s : State) (c : Command) : (s.issue c).response = s.response := rfl

/-- The empty success: what the response registers hold after reset. -/
@[simp] theorem reset_response : State.reset.response = done .bytes [] := rfl

end Sys2Proof.Machine
end

