-- ==== Sys2Proof/Laws/Ops.lean ====
section
/-! SUPPORT. What each shared operation can do, said once. -/

namespace Sys2Proof.Machine

@[simp] theorem withinMaxLen_zero (p : Params) : withinMaxLen p 0 = true := by
  unfold withinMaxLen
  split <;> simp

theorem withinMaxLen_none {p : Params} (h : p.maxLen = none) (n : Nat) : withinMaxLen p n = true := by
  simp [withinMaxLen, h]

theorem withinMaxLen_some {p : Params} {m : Nat} (h : p.maxLen = some m) (n : Nat) :
    withinMaxLen p n = true ↔ n ≤ m := by
  simp [withinMaxLen, h]

/-- A command ends with its response exactly when its input and its output are within `MAX_LEN`. -/
theorem respond_next_iff {r : Response} {s t : State} :
    respond r s = .next t ↔ (s.inputFits ∧ s.outputFits r.olen) ∧ t = s.withResponse r := by
  rw [respond, ← Bool.and_eq_true]
  split
  next h => exact ⟨fun e => ⟨h, (Host.Outcome.next.inj e).symm⟩, fun e => by rw [e.2]⟩
  next h => exact ⟨nofun, fun e => absurd e.1 h⟩

theorem respond_of_fits {r : Response} {s : State} (hi : s.inputFits) (ho : s.outputFits r.olen) :
    respond r s = .next (s.withResponse r) :=
  respond_next_iff.2 ⟨⟨hi, ho⟩, rfl⟩

/-- Otherwise it is refused, for that one reason. -/
theorem respond_refused_iff {r : Response} {s : State} {why : Refusal} :
    respond r s = .refused why ↔ ¬ (s.inputFits ∧ s.outputFits r.olen) ∧ why = .exceedsMaxLen := by
  rw [respond, ← Bool.and_eq_true]
  split
  next h => exact ⟨nofun, fun e => absurd h e.1⟩
  next h => exact ⟨fun e => ⟨h, (Host.Outcome.refused.inj e).symm⟩, fun e => by rw [e.2]⟩

/-- Nothing faults: there is no reason to. -/
theorem respond_ne_fault {r : Response} {s : State} {f : Fault} : respond r s ≠ .fault f := nomatch f

/-- An error has no output, so only its input can exceed `MAX_LEN`. -/
theorem raiseError_of_fits {e : ErrorKind} {s : State} (hi : s.inputFits) :
    raiseError e s = .next (s.withResponse (raise e)) :=
  respond_of_fits hi (withinMaxLen_zero _)

@[simp] theorem expectKind_same (k : Kind) (r : Response) : expectKind k k r = r := if_pos rfl

theorem expectKind_ne {want got : Kind} (h : got ≠ want) (r : Response) : expectKind want got r = raise .typeError :=
  if_neg h

/-- Both shapes of a response agree with 30_encoding.md R49. -/
theorem done_shaped (k : Kind) (out : List Byte) : (done k out).Shaped := ⟨rfl, .inl rfl⟩

theorem raise_shaped (e : ErrorKind) : (raise e).Shaped := ⟨rfl, .inr ⟨rfl, rfl, rfl⟩⟩

theorem expectKind_shaped {want got : Kind} {r : Response} (h : r.Shaped) : (expectKind want got r).Shaped := by
  unfold expectKind
  split
  · exact h
  · exact raise_shaped _

/-- The output buffer keeps its form when a shaped response is written (10_state.md R18, R19). -/
theorem withResponse_bufferWf {s : State} {r : Response} (h : r.Shaped) : (s.withResponse r).bufferWf := h.1.symm

theorem accept_bufferWf {s : State} (h : s.bufferWf) (c : Command) (es : List HostEvent) : (s.accept c es).bufferWf := h

theorem takeReset_bufferWf (s : State) (a : Option Command) (es : List HostEvent) : (s.takeReset a es).bufferWf := by
  cases a <;> rfl

theorem reset_bufferWf : State.reset.bufferWf := rfl

/-- A reset keeps what is the host's and the build's (10_state.md R23, R24). -/
@[simp] theorem takeReset_host (s : State) (a : Option Command) (es : List HostEvent) : (s.takeReset a es).host = es := by
  cases a <;> rfl

@[simp] theorem takeReset_params (s : State) (a : Option Command) (es : List HostEvent) :
    (s.takeReset a es).params = s.params := by
  cases a <;> rfl

@[simp] theorem takeReset_response (s : State) (a : Option Command) (es : List HostEvent) :
    (s.takeReset a es).response = done .bytes [] := by
  cases a <;> rfl

end Sys2Proof.Machine
end

