-- ==== Sys2Proof/Laws/Tables.lean ====
section
/-! SUPPORT. Reading the tables that reset leaves. -/

namespace Sys2Proof.Machine

@[simp] theorem tableOf_getElem {α : Type} (n : Nat) (f : Nat → α) (i : Nat) (h : i < n) : (tableOf n f)[i] = f i := by
  simp [tableOf]

@[simp] theorem readByByte_tableOf {α : Type} (f : Nat → α) (b : Byte) : readByByte (tableOf 256 f) b = f b.toNat :=
  tableOf_getElem 256 f b.toNat b.isLt

@[simp] theorem readBySextet_tableOf {α : Type} (f : Nat → α) (v : Sextet) : readBySextet (tableOf 64 f) v = f v.toNat :=
  tableOf_getElem 64 f v.toNat v.isLt

/-- The nibbles of a byte by division (00_scope.md section 5: `a >> k` is `floor(a / 2^k)`). -/
theorem hexPairOf_eq (b : Nat) : hexPairOf b = (hexchar (b / 16), hexchar (b % 16)) := by
  have h : b &&& 15 = b % 16 := Nat.and_two_pow_sub_one_eq_mod b 4
  simp [hexPairOf, Nat.shiftRight_eq_div_pow, h]

/-- Every character of the base64 alphabet passes `isB64`. -/
theorem isB64_b64char : ∀ v : Sextet, isB64 (b64char v.toNat) = true := by decide

/-- An alphabet character's value is its index (10_state.md R14). -/
theorem b64value_b64char : ∀ v : Sextet, BitVec.ofNat 6 (b64value (b64char v.toNat)) = v := by decide

/-- An alphabet code is the character of its value (10_state.md R13, R14). -/
theorem b64char_b64value : ∀ c : Byte, isB64 c = true → b64char (b64value c) = c := by decide +revert

/-- The value of an alphabet code fits 6 bits. -/
theorem b64value_lt : ∀ c : Byte, isB64 c = true → b64value c < 64 := by decide +revert

theorem b64revEntry_of_isB64 (c : Byte) (h : isB64 c = true) : b64revEntry c.toNat = BitVec.ofNat 6 (b64value c) := by
  simp [b64revEntry, h]

/-- The tables that reset leaves hold what 10_state.md R11, R13 and R14 say. -/
theorem contents_built (s : State) (h1 : s.hexlut = hexlutContents) (h2 : s.b64alpha = b64alphaContents)
    (h3 : s.b64rev = b64revContents) : s.TablesBuilt := by
  refine ⟨fun b => ?_, fun v => ?_, fun v => ?_⟩
  · rw [h1, hexlutContents, readByByte_tableOf, hexPairOf_eq]
  · rw [h2, b64alphaContents, readBySextet_tableOf]
  · rw [h3, b64revContents, readByByte_tableOf, b64revEntry_of_isB64 _ (isB64_b64char v), b64value_b64char]

/-- With the tables built, `B64REV` gives an alphabet code its value. -/
theorem TablesBuilt_rev {s : State} (h : s.TablesBuilt) {c : Byte} (hc : isB64 c = true) :
    readByByte s.b64rev c = BitVec.ofNat 6 (b64value c) := by
  have hv := h.2.2 (BitVec.ofNat 6 (b64value c))
  rwa [BitVec.toNat_ofNat, Nat.mod_eq_of_lt (b64value_lt c hc), b64char_b64value c hc] at hv

end Sys2Proof.Machine
end

