-- ==== Sys2Proof/Laws/Exec.lean ====
section
/-! SUPPORT. Every instruction is `respond` of its response; what one step can do, said once. -/

namespace Sys2Proof.Machine

/-- The response an instruction gives in a state. -/
def responseOf (i : Instr) (s : State) : Response :=
  match i with
  | .hexenc k => hexencResponse s.hexlut k s.ibuf
  | .hexencu k => hexencuResponse s.hexlut k s.ibuf
  | .hexdec k => hexdecResponse k s.ibuf
  | .b64enc k => b64encResponse s.b64alpha s.params.tailPolicy k s.ibuf
  | .b64dec k => b64decResponse s.b64rev k s.ibuf

theorem exec_eq_respond (i : Instr) (s : State) : exec i s = respond (responseOf i s) s := by
  cases i <;> rfl

/-- What an instruction can do: write its response, when that is within `MAX_LEN`. -/
theorem exec_next_iff {i : Instr} {s t : State} :
    exec i s = .next t ↔ (s.inputFits ∧ s.outputFits (responseOf i s).olen) ∧ t = s.withResponse (responseOf i s) := by
  rw [exec_eq_respond, respond_next_iff]

theorem exec_of_fits {i : Instr} {s : State} (hi : s.inputFits) (ho : s.outputFits (responseOf i s).olen) :
    exec i s = .next (s.withResponse (responseOf i s)) :=
  exec_next_iff.2 ⟨⟨hi, ho⟩, rfl⟩

/-- The response a command gives, reserved words included. -/
def commandResponse (w : Byte) (s : State) : Response :=
  match decode w with
  | .instr i => responseOf i s
  | .reserved _ => raise .illegalCommand

/-- A step with a command waiting ends it with its response, reserved words included. -/
theorem step_issue {s : State} {c : Command} {rest : List HostEvent} (hh : s.host = .issue c :: rest) :
    step s = respond (commandResponse c.word (s.accept c rest)) (s.accept c rest) := by
  simp only [step, hh, commandResponse]
  cases decode c.word with
  | instr i => exact exec_eq_respond i _
  | reserved why => rfl

/-- What one step can do: nothing, a reset, or one command with its whole response. -/
theorem step_cases {s t : State} (h : step s = .next t) :
    (s.host = [] ∧ t = s) ∨
    (∃ a rest, s.host = .reset a :: rest ∧ t = s.takeReset a rest) ∨
    (∃ c rest, s.host = .issue c :: rest ∧
      ((s.accept c rest).inputFits ∧ (s.accept c rest).outputFits (commandResponse c.word (s.accept c rest)).olen) ∧
      t = (s.accept c rest).withResponse (commandResponse c.word (s.accept c rest))) := by
  cases hh : s.host with
  | nil =>
    simp only [step, hh, Host.Outcome.next.injEq] at h
    exact .inl ⟨rfl, h.symm⟩
  | cons e rest =>
    cases e with
    | reset a =>
      simp only [step, hh, Host.Outcome.next.injEq] at h
      exact .inr (.inl ⟨a, rest, rfl, h.symm⟩)
    | issue c =>
      rw [step_issue hh] at h
      exact .inr (.inr ⟨c, rest, rfl, respond_next_iff.1 h⟩)

end Sys2Proof.Machine
end

