-- ==== Sys2Proof/Laws/Codec.lean ====
section
/-! SUPPORT. The conversion loops: their lengths, and their one-step equations. -/

namespace Sys2Proof.Machine

@[simp] theorem hexPair_length (lut : Vector (Byte × Byte) 256) (b : Byte) : (hexPair lut b).length = 2 := rfl

@[simp] theorem hexPlain_nil (lut : Vector (Byte × Byte) 256) : hexPlain lut [] = [] := rfl

@[simp] theorem hexPlain_cons (lut : Vector (Byte × Byte) 256) (b : Byte) (rest : List Byte) :
    hexPlain lut (b :: rest) = hexPair lut b ++ hexPlain lut rest := by
  simp [hexPlain]

@[simp] theorem hexPlain_length (lut : Vector (Byte × Byte) 256) (input : List Byte) :
    (hexPlain lut input).length = 2 * input.length := by
  induction input with
  | nil => rfl
  | cons b rest ih => simp [ih]; omega

@[simp] theorem hexDashed_nil (lut : Vector (Byte × Byte) 256) (i : Nat) : hexDashed lut i [] = [] := rfl

@[simp] theorem hexDashed_cons (lut : Vector (Byte × Byte) 256) (i : Nat) (b : Byte) (rest : List Byte) :
    hexDashed lut i (b :: rest) = (if dashBefore i then [dash] else []) ++ hexPair lut b ++ hexDashed lut (i + 1) rest :=
  rfl

@[simp] theorem hexBytes_nil : hexBytes [] = [] := rfl

@[simp] theorem hexBytes_cons (hi lo : Byte) (rest : List Byte) :
    hexBytes (hi :: lo :: rest) = BitVec.ofNat 8 (hexval hi * 16 + hexval lo) :: hexBytes rest := rfl

@[simp] theorem hexBytes_length : ∀ input : List Byte, (hexBytes input).length = input.length / 2
  | [] => rfl
  | [_] => by simp [hexBytes]
  | _ :: _ :: rest => by simp [hexBytes_length rest]; omega

@[simp] theorem b64Chars_length (alpha : Vector Byte 64) (b1 b2 b3 : Byte) : (b64Chars alpha b1 b2 b3).length = 4 := rfl

@[simp] theorem b64Bytes_length (rev : Vector Sextet 256) (c0 c1 c2 c3 : Byte) :
    (b64Bytes rev c0 c1 c2 c3).length = 3 := rfl

@[simp] theorem b64EncodeGroups_cons (alpha : Vector Byte 64) (b1 b2 b3 : Byte) (rest : List Byte) :
    b64EncodeGroups alpha (b1 :: b2 :: b3 :: rest) = b64Chars alpha b1 b2 b3 ++ b64EncodeGroups alpha rest := rfl

@[simp] theorem b64DecodeGroups_cons (rev : Vector Sextet 256) (c0 c1 c2 c3 : Byte) (rest : List Byte) :
    b64DecodeGroups rev (c0 :: c1 :: c2 :: c3 :: rest) = b64Bytes rev c0 c1 c2 c3 ++ b64DecodeGroups rev rest := rfl

@[simp] theorem b64EncodeGroups_length (alpha : Vector Byte 64) :
    ∀ input : List Byte, (b64EncodeGroups alpha input).length = 4 * (input.length / 3)
  | [] => rfl
  | [_] => by simp [b64EncodeGroups]
  | [_, _] => by simp [b64EncodeGroups]
  | _ :: _ :: _ :: rest => by simp [b64EncodeGroups_length alpha rest]; omega

@[simp] theorem b64DecodeGroups_length (rev : Vector Sextet 256) :
    ∀ input : List Byte, (b64DecodeGroups rev input).length = 3 * (input.length / 4)
  | [] => rfl
  | [_] => by simp [b64DecodeGroups]
  | [_, _] => by simp [b64DecodeGroups]
  | [_, _, _] => by simp [b64DecodeGroups]
  | _ :: _ :: _ :: _ :: rest => by simp [b64DecodeGroups_length rev rest]; omega

/-- The tail of 1 or 2 bytes is an error only under the policy `FAULT` (41_base64codec.md R84). -/
theorem tailFaults_iff (policy : TailPolicy) (n : Nat) : tailFaults policy n = true ↔ n % 3 ≠ 0 ∧ policy = .fault := by
  unfold tailFaults
  cases policy <;> rcases h : n % 3 with _ | m <;> simp

@[simp] theorem strip_nil : strip [] = [] := rfl

theorem strip_append (s t : List Byte) : strip (s ++ t) = strip s ++ strip t := List.filter_append ..

end Sys2Proof.Machine
end

