-- ==== Sys2Proof/Laws/PerInstr.lean ====
section
/-! SUPPORT. Per instruction: it is well formed, and its word selects its own row of the opcode map and no other (30_encoding.md R50). -/

namespace Sys2Proof.Laws.OwnRow

/-- The word of `i` selects exactly the row that bears its name. -/
def Statement (i : Instr) : Prop :=
  i.wellFormed = true ∧ ∀ r ∈ opcodeMap, (r.selects (encode i) = true ↔ r.mnemonic = i.mnemonic)

theorem hexenc (k : Kind) : Statement (.hexenc k) := by
  cases k <;> exact ⟨rfl, by decide⟩

theorem hexencu (k : Kind) : Statement (.hexencu k) := by
  cases k <;> exact ⟨rfl, by decide⟩

theorem hexdec (k : Kind) : Statement (.hexdec k) := by
  cases k <;> exact ⟨rfl, by decide⟩

theorem b64enc (k : Kind) : Statement (.b64enc k) := by
  cases k <;> exact ⟨rfl, by decide⟩

theorem b64dec (k : Kind) : Statement (.b64dec k) := by
  cases k <;> exact ⟨rfl, by decide⟩

end Sys2Proof.Laws.OwnRow
end

