-- ==== Sys2Proof/Laws/Responses.lean ====
section
/-! SUPPORT. The response of each instruction, one lemma per outcome, so that no proof unfolds a response again. -/

namespace Sys2Proof.Machine

theorem hexencResponse_badLength {lut : Vector (Byte × Byte) 256} {input : List Byte} (h : input.length ≠ 16) :
    hexencResponse lut .bytes input = raise .lengthError := by
  simp [hexencResponse, hexLen, h]

theorem hexencResponse_ok {lut : Vector (Byte × Byte) 256} {input : List Byte} (h : input.length = 16) :
    hexencResponse lut .bytes input = done .string (hexPlain lut input) := by
  simp [hexencResponse, hexLen, h]

theorem hexencuResponse_badLength {lut : Vector (Byte × Byte) 256} {input : List Byte} (h : input.length ≠ 16) :
    hexencuResponse lut .bytes input = raise .lengthError := by
  simp [hexencuResponse, hexLen, h]

theorem hexencuResponse_ok {lut : Vector (Byte × Byte) 256} {input : List Byte} (h : input.length = 16) :
    hexencuResponse lut .bytes input = done .string (hexDashed lut 0 input) := by
  simp [hexencuResponse, hexLen, h]

theorem hexdecResponse_oddLength {input : List Byte} (h : (strip input).length % 2 = 1) :
    hexdecResponse .string input = raise .lengthError := by
  simp [hexdecResponse, h]

theorem hexdecResponse_badChar {input : List Byte} (h : (strip input).length % 2 = 0)
    (hx : ∃ c ∈ strip input, isHex c = false) : hexdecResponse .string input = raise .formatError := by
  have hall : (strip input).all isHex = false := by simpa using hx
  simp [hexdecResponse, h, hall]

theorem hexdecResponse_ok {input : List Byte} (h : (strip input).length % 2 = 0)
    (hx : ∀ c ∈ strip input, isHex c = true) : hexdecResponse .string input = done .bytes (hexBytes (strip input)) := by
  have hall : (strip input).all isHex = true := by simpa using hx
  simp only [hexdecResponse, expectKind_same, h, hall]
  rfl

theorem b64encResponse_tail {alpha : Vector Byte 64} {input : List Byte} (h : input.length % 3 ≠ 0) :
    b64encResponse alpha .fault .bytes input = raise .lengthError := by
  have ht : tailFaults .fault input.length = true := (tailFaults_iff _ _).2 ⟨h, rfl⟩
  simp [b64encResponse, ht]

theorem b64encResponse_ok {alpha : Vector Byte 64} {policy : TailPolicy} {input : List Byte}
    (h : input.length % 3 = 0 ∨ policy = .drop) :
    b64encResponse alpha policy .bytes input = done .string (b64EncodeGroups alpha input) := by
  have ht : ¬ tailFaults policy input.length = true := by
    rw [tailFaults_iff]
    rintro ⟨h1, rfl⟩
    simp [h1] at h
  simp only [b64encResponse, expectKind_same, if_neg ht]

theorem b64decResponse_bad {rev : Vector Sextet 256} {input : List Byte}
    (h : input.length % 4 ≠ 0 ∨ ∃ c ∈ input, isB64 c = false) :
    b64decResponse rev .string input = raise .formatError := by
  rcases h with h | h
  · simp [b64decResponse, h]
  · have hall : input.all isB64 = false := by simpa using h
    simp [b64decResponse, hall]

theorem b64decResponse_ok {rev : Vector Sextet 256} {input : List Byte} (h : input.length % 4 = 0)
    (hx : ∀ c ∈ input, isB64 c = true) :
    b64decResponse rev .string input = done .bytes (b64DecodeGroups rev input) := by
  have hall : input.all isB64 = true := by simpa using hx
  simp [b64decResponse, h, hall]

/-- A wrong kind, in any instruction (30_encoding.md R52). -/
theorem responseOf_wrongKind {i : Instr} {s : State} (h : i.kind ≠ expectedKind i) :
    responseOf i s = raise .typeError := by
  cases i <;> exact expectKind_ne h _

end Sys2Proof.Machine
end

