-- ==== Sys2Proof/Tests/Slice0.lean ====
section
/-! SUPPORT. Tests, their expected results from the spec's encodings, tables and vectors (95_test_vectors.md). The witnesses of the statements' hypotheses are in Tests/Witnesses.lean. -/

-- The tests are checked one after another, since each thread of a parallel check reserves a stack of its own.
set_option Elab.async false

namespace Sys2Proof.Tests

open Sys2Proof.Machine

/-! ### Well-formed command words (30_encoding.md R46) -/

theorem test_refuses_high_bits :
    ({ op := 1, u := false, k := .string, zero := 1 } : CmdFields).wellFormed = false := by decide

theorem test_refuses_uuid_on_decode :
    ({ op := 1, u := true, k := .string, zero := 0 } : CmdFields).wellFormed = false := by decide

theorem test_accepts_uuid_on_encode :
    ({ op := 0, u := true, k := .bytes, zero := 0 } : CmdFields).wellFormed = true := by decide

/-- The decoder refuses exactly the ill-formed words. -/
theorem test_decoder_refuses_ill_formed : ∀ w : Byte, (CmdFields.ofWord w).wellFormed = (decodeTableWord 8 w.toNat).isSome := by
  decide +kernel

/-! ### Words written out bit by bit from the patterns of 30_encoding.md R50 -/

theorem test_decode_hexenc : decode 0b00000000#8 = .instr (.hexenc .bytes) := by decide
theorem test_decode_hexenc_k : decode 0b00001000#8 = .instr (.hexenc .string) := by decide
theorem test_decode_hexencu : decode 0b00000100#8 = .instr (.hexencu .bytes) := by decide
theorem test_decode_hexdec : decode 0b00001001#8 = .instr (.hexdec .string) := by decide
theorem test_decode_b64enc : decode 0b00000010#8 = .instr (.b64enc .bytes) := by decide
theorem test_decode_b64dec : decode 0b00001011#8 = .instr (.b64dec .string) := by decide

/-- 95_test_vectors.md W1, W3. -/
theorem test_decode_reserved : decode 0x05#8 = .reserved .uuidFlag ∧ decode 0x10#8 = .reserved .highBits := by decide

theorem test_table_word : decodeTableWord 8 0x04 = some (.hexencu .bytes) ∧ decodeTableWord 8 0x06 = none := by decide

/-! ### Tables -/

/-- The alphabet as the one string of 10_state.md R13. -/
theorem test_alphabet : b64alphaContents.toList =
    ascii "ABCDEFGHIJKLMNOPQRSTUVWXYZabcdefghijklmnopqrstuvwxyz0123456789-_" := by decide +kernel

/-- Row 0xA of the table of 10_state.md R11. -/
theorem test_hexlut_row_A : ((List.range 16).map fun c => readByByte hexlutContents (BitVec.ofNat 8 (0xA0 + c))).flatMap
    (fun p => [p.1, p.2]) = ascii "a0a1a2a3a4a5a6a7a8a9aaabacadaeaf" := by decide +kernel

/-! ### One step of each instruction -/

/-- The block after reset, built with a tail policy and a `MAX_LEN`, with a payload presented. -/
def ready (policy : TailPolicy) (maxLen : Option Nat) (input : List Byte) : State :=
  { State.reset with ibuf := input, params := { tailPolicy := policy, maxLen := maxLen } }

/-- What an instruction answers to a payload, in the numbers of 95_test_vectors.md. -/
def answer (policy : TailPolicy) (i : Instr) (input : List Byte) : Option (Nat × Nat × Nat × List Nat) :=
  match exec i (ready policy none input) with
  | .next t => some t.response.numbers
  | .fault _ => none
  | .refused _ => none

/-- The payload of vector H1. -/
def uuid : List Byte := [0x55, 0x0e, 0x84, 0x00, 0xe2, 0x9b, 0x41, 0xd4, 0xa7, 0x16, 0x44, 0x66, 0x55, 0x44, 0x00, 0x00]

/-- The payload of vector H4. -/
def counting : List Byte := [0, 1, 2, 3, 4, 5, 6, 7, 8, 9, 10, 11, 12, 13, 14, 15]

/-- The codes of a text, as numbers. -/
def codes (s : String) : List Nat := (ascii s).map BitVec.toNat

/-- H1. -/
theorem test_hexenc_uuid : answer .fault (.hexenc .bytes) uuid =
    some (0, 1, 32, codes "550e8400e29b41d4a716446655440000") := by decide +kernel

/-- H14: 16 elements of the wrong kind. -/
theorem test_hexenc_string : answer .fault (.hexenc .string) (ascii "0123456789abcdef") = some (1, 0, 0, []) := by
  decide +kernel

/-- H4. -/
theorem test_hexencu_counting : answer .fault (.hexencu .bytes) counting =
    some (0, 1, 36, codes "00010203-0405-0607-0809-0a0b0c0d0e0f") := by decide +kernel

/-- H12. -/
theorem test_hexencu_seventeen : answer .fault (.hexencu .bytes) (0 :: counting) = some (2, 0, 0, []) := by decide +kernel

/-- X5, X6, X8: dashes inside a pair, mixed case, odd length with odd dashes. -/
theorem test_hexdec_dashes : answer .fault (.hexdec .string) (ascii "-a-b-") = some (0, 0, 1, [0xab]) ∧
    answer .fault (.hexdec .string) (ascii "AbCd") = some (0, 0, 2, [0xab, 0xcd]) ∧
    answer .fault (.hexdec .string) (ascii "5-5-0-e") = some (0, 0, 2, [0x55, 0x0e]) := by decide +kernel

/-- X11, X12: length before characters. -/
theorem test_hexdec_errors : answer .fault (.hexdec .string) (ascii "zz") = some (3, 0, 0, []) ∧
    answer .fault (.hexdec .string) (ascii "abz") = some (2, 0, 0, []) := by decide +kernel

/-- E7. -/
theorem test_b64enc_two_groups : answer .fault (.b64enc .bytes) [0x14, 0xfb, 0x9c, 0x03, 0xd9, 0x7e] =
    some (0, 1, 8, codes "FPucA9l-") := by decide +kernel

/-- E16, both policies. -/
theorem test_b64enc_tail : answer .fault (.b64enc .bytes) [1, 2, 3, 4] = some (2, 0, 0, []) ∧
    answer .drop (.b64enc .bytes) [1, 2, 3, 4] = some (0, 1, 4, codes "AQID") := by decide +kernel

/-- D4, D5. -/
theorem test_b64dec_groups : answer .fault (.b64dec .string) (ascii "TWFu") = some (0, 0, 3, [0x4d, 0x61, 0x6e]) ∧
    answer .fault (.b64dec .string) (ascii "-_-_") = some (0, 0, 3, [0xfb, 0xff, 0xbf]) := by decide +kernel

/-- D9, D13: a short string, and the padding character. -/
theorem test_b64dec_errors : answer .fault (.b64dec .string) (ascii "AAA") = some (3, 0, 0, []) ∧
    answer .fault (.b64dec .string) (ascii "AA==") = some (3, 0, 0, []) := by decide +kernel

/-! ### The step -/

/-- The numbers of the response a step from `s` leaves. -/
def stepAnswer (s : State) : Option (Nat × Nat × Nat × List Nat) :=
  match step s with
  | .next t => some t.response.numbers
  | .fault _ => none
  | .refused _ => none

/-- W3: a reserved word as the first command after reset. -/
theorem test_step_reserved : stepAnswer (State.reset.issue { word := 0x10, input := [] }) = some (4, 0, 0, []) := by decide

/-- Every legal word runs as the first instruction after reset, with the empty payload reset presents: H9, X3, E3, D3. -/
theorem test_fetch_word : ([0x00, 0x04, 0x09, 0x02, 0x0B].map fun w => stepAnswer (State.reset.withFetchWord 8 w)) =
    [some (2, 0, 0, []), some (2, 0, 0, []), some (0, 0, 0, []), some (0, 1, 0, []), some (0, 0, 0, [])] := by decide

/-- A reset clears the response of the command before it (70_reset_and_hazards.md R120). -/
theorem test_step_reset : stepAnswer { ready .fault none [] with status := .error .formatError, host := [.reset none] } =
    some (0, 0, 0, []) := by decide

/-- 93_implementation_defined.md V5. -/
theorem test_read_beyond_olen : readObuf (ready .fault none []) 0 = .refused .outputElementAbsent := rfl

/-! ### The textual syntax: the examples of 30_encoding.md R56 and program P3 -/

theorem test_assemble_string : assemble (ascii "HEXDEC s\"0a\"") = some { word := 0x09, input := [0x30, 0x61] } := by
  decide +kernel

theorem test_assemble_bytes : assemble (ascii "HEXDEC b[30 61]  ; TypeError") =
    some { word := 0x01, input := [0x30, 0x61] } := by decide +kernel

theorem test_assemble_reserved : assemble (ascii ".cmd 0x05 s\"0a\"") = some { word := 0x05, input := [0x30, 0x61] } := by
  decide +kernel

theorem test_assemble_escapes : assemble (ascii "B64DEC s\"\\xe9\\\"\\\\\"") =
    some { word := 0x0B, input := [0xe9, 0x22, 0x5C] } := by decide +kernel

end Sys2Proof.Tests
end

