-- ==== Sys2Proof/Tests/Witnesses.lean ====
section
/-! SUPPORT. For each statement with hypotheses, a witness: a concrete state and operands that meet them together. -/

-- The tests are checked one after another, since each thread of a parallel check reserves a stack of its own.
set_option Elab.async false

namespace Sys2Proof.Tests

open Sys2Proof.Machine

theorem ready_built (p : TailPolicy) (m : Option Nat) (l : List Byte) : (ready p m l).TablesBuilt :=
  contents_built _ rfl rfl rfl

theorem ready_next (i : Instr) (p : TailPolicy) (l : List Byte) :
    exec i (ready p none l) = .next ((ready p none l).withResponse (responseOf i (ready p none l))) :=
  exec_of_fits (withinMaxLen_none rfl _) (withinMaxLen_none rfl _)

theorem ready_inv (p : TailPolicy) (l : List Byte) : (ready p none l).Inv :=
  ⟨ready_built _ _ _, done_shaped .bytes [], withinMaxLen_none rfl _⟩

/-- A state with a command waiting, and the state its step leaves. -/
theorem ready_step (p : TailPolicy) (l : List Byte) (c : Command) (i : Instr) (h : decode c.word = .instr i) :
    step ((ready p none l).issue c) = .next ((ready p none c.input).withResponse (responseOf i (ready p none c.input))) := by
  unfold step
  simp only [issue_host, h]
  exact ready_next i p c.input

theorem witness_DecodeAndEncodeAgree :
    (Instr.hexencu .string).wellFormed = true ∧ decode 0x0C = .instr (.hexencu .string) := by decide

theorem witness_ReservedWordsRaiseIllegalCommand : ∀ w ∈ [0x05#8, 0x0F#8, 0x10#8, 0xFF#8],
    ((ready .fault (some 1) []).issue { word := w, input := [0] }).host = [.issue { word := w, input := [0] }] ∧
    (∃ why ∈ [Reserved.highBits, .uuidFlag], decode w = .reserved why) ∧
    withinMaxLen (ready .fault (some 1) []).params ([0] : List Byte).length = true := by decide +kernel

theorem witness_AssemblyReadsBackDisassembly : endsLine [] = true ∧ endsLine (ascii "  ; comment") = true := by decide

theorem witness_StepRunsTheDecodedInstruction :
    (State.reset.issue { word := 0x00, input := uuid }).host = [.issue { word := 0x00, input := uuid }] ∧
    decode 0x00 = .instr (.hexenc .bytes) := ⟨rfl, by decide⟩

theorem witness_IdleStepRetainsState : State.reset.host = [] := rfl

theorem witness_ResetStepGivesResetValues : ∀ a ∈ [none, some ({ word := 0x00, input := uuid } : Command)],
    ({ State.reset with host := [.reset a] } : State).host = [.reset a] := fun _ _ => rfl

theorem witness_StepKeepsParametersAndHostOrder : ∃ t, step State.reset = .next t := ⟨_, rfl⟩

theorem witness_EveryStepCompletesWithoutBound : State.reset.params.maxLen = none := rfl

/-- `HEXENC` of 16 bytes under a bound: exactly enough for the output, one too few for it, one too few for the input. -/
theorem witness_BoundedBuildRefusesAndNeverTruncates :
    let t := (ready .fault none uuid).withResponse (responseOf (.hexenc .bytes) (ready .fault none uuid))
    (ready .fault (some 32) uuid).params.maxLen = some 32 ∧ uuid.length ≤ 32 ∧ t.olen ≤ 32 ∧ 31 < t.olen ∧
      15 < uuid.length := by decide +kernel

theorem witness_HexcharIsTheLowercaseDigit : (9 : Nat) ≤ 9 ∧ 10 ≤ 10 ∧ 10 ≤ 15 ∧ 15 ≤ 15 := by decide

theorem witness_ReverseTableInvertsTheAlphabet : (0x5A#8).toNat ≤ 0x5A ∧ 0x61 ≤ (0x61#8).toNat ∧ (0x39#8).toNat ≤ 0x39 ∧
    (0x2D#8).toNat = 0x2D ∧ (0x5F#8).toNat = 0x5F := by decide

theorem witness_HexvalOfEitherCase : (0x39#8).toNat ≤ 0x39 ∧ (0x66#8).toNat ≤ 0x66 ∧ (0x46#8).toNat ≤ 0x46 ∧ 15 ≤ 15 := by
  decide

/-- Wrong lengths at the boundary, and the right one in a build whose bound is exactly the output's length. -/
theorem witness_HexencMeaning : (ready .fault (some 32) uuid).TablesBuilt ∧ (ready .fault (some 32) uuid).inputFits ∧
    uuid.length = 16 ∧ (ready .fault (some 32) uuid).outputFits 32 ∧ (uuid.drop 1).length ≠ 16 ∧ (0 :: uuid).length ≠ 16 :=
  ⟨ready_built _ _ _, by decide, by decide, by decide, by decide, by decide⟩

theorem witness_HexencuMeaning : (ready .fault (some 36) uuid).TablesBuilt ∧ (ready .fault (some 36) uuid).inputFits ∧
    uuid.length = 16 ∧ (ready .fault (some 36) uuid).outputFits 36 ∧ (uuid.drop 1).length ≠ 16 ∧ (0 :: uuid).length ≠ 16 :=
  ⟨ready_built _ _ _, by decide, by decide, by decide, by decide, by decide⟩

theorem witness_UndashedUuidIsThePlainForm : (ready .fault none uuid).TablesBuilt ∧
    (∃ t, exec (.hexenc .bytes) (ready .fault none uuid) = .next t) ∧
    ∃ u, exec (.hexencu .bytes) (ready .fault none uuid) = .next u :=
  ⟨ready_built _ _ _, ⟨_, ready_next _ _ _⟩, ⟨_, ready_next _ _ _⟩⟩

/-- An odd count with a bad character (X12), an even one with one (X11), the empty string (X3), and dashes (X5). -/
theorem witness_HexdecMeaning : (ready .fault (some 5) (ascii "-a-b-")).inputFits ∧
    (undashed (ascii "abz")).length % 2 = 1 ∧
    ((undashed (ascii "zz")).length % 2 = 0 ∧ ∃ c ∈ undashed (ascii "zz"), isHex c = false) ∧
    ((undashed []).length % 2 = 0 ∧ ∀ c ∈ undashed [], isHex c = true) ∧
    ((undashed (ascii "-a-b-")).length % 2 = 0 ∧ ∀ c ∈ undashed (ascii "-a-b-"), isHex c = true) ∧
    (ready .fault (some 5) (ascii "-a-b-")).outputFits ((undashed (ascii "-a-b-")).length / 2) := by decide +kernel

/-- A decode of upper-case digits, and an encode of its output. -/
theorem witness_ReencodingLowersCase :
    let s := ready .fault none (ascii "AAbbCCddEEff0011AAbbCCddEEff0011")
    let t := s.withResponse (responseOf (.hexdec .string) s)
    exec (.hexdec .string) s = .next t ∧ (t.status = .ok ∧ t.obuf.length = 16) ∧ (ready .fault none t.obuf).TablesBuilt ∧
      (ready .fault none t.obuf).ibuf = t.obuf ∧ (ready .fault none t.obuf).inputFits ∧
      (ready .fault none t.obuf).outputFits 32 :=
  ⟨ready_next _ _ _, by decide +kernel, ready_built _ _ _, rfl, withinMaxLen_none rfl _, withinMaxLen_none rfl _⟩

theorem witness_HexPlainRoundTrip :
    let s := ready .fault none uuid
    let t := s.withResponse (responseOf (.hexenc .bytes) s)
    s.TablesBuilt ∧ exec (.hexenc .bytes) s = .next t ∧ t.status = .ok ∧ (ready .fault none t.obuf).ibuf = t.obuf ∧
      (ready .fault none t.obuf).inputFits ∧ (ready .fault none t.obuf).outputFits 16 :=
  ⟨ready_built _ _ _, ready_next _ _ _, by decide, rfl, withinMaxLen_none rfl _, withinMaxLen_none rfl _⟩

theorem witness_HexUuidRoundTrip :
    let s := ready .fault none uuid
    let t := s.withResponse (responseOf (.hexencu .bytes) s)
    s.TablesBuilt ∧ exec (.hexencu .bytes) s = .next t ∧ t.status = .ok ∧ (ready .fault none t.obuf).ibuf = t.obuf ∧
      (ready .fault none t.obuf).inputFits ∧ (ready .fault none t.obuf).outputFits 16 :=
  ⟨ready_built _ _ _, ready_next _ _ _, by decide, rfl, withinMaxLen_none rfl _, withinMaxLen_none rfl _⟩

theorem witness_HexdecIgnoresDashes : undashed (ascii "a-b") = undashed (ascii "-ab") ∧
    (∃ t, exec (.hexdec .string) (ready .fault none (ascii "a-b")) = .next t) ∧
    ∃ t, exec (.hexdec .string) (ready .fault none (ascii "-ab")) = .next t :=
  ⟨by decide, ⟨_, ready_next _ _ _⟩, ⟨_, ready_next _ _ _⟩⟩

theorem witness_HexWireFormat : (ready .fault none uuid).TablesBuilt ∧
    (∃ t, exec (.hexenc .bytes) (ready .fault none uuid) = .next t ∧ t.status = .ok) ∧
    ∃ t, exec (.hexencu .bytes) (ready .fault none uuid) = .next t ∧ t.status = .ok :=
  ⟨ready_built _ _ _, ⟨_, ready_next _ _ _, by decide⟩, ⟨_, ready_next _ _ _, by decide⟩⟩

/-- A tail under each policy, no tail, and no input at all. -/
theorem witness_B64encMeaning : (ready .fault (some 4) [1, 2, 3, 4]).TablesBuilt ∧
    (ready .fault (some 4) [1, 2, 3, 4]).inputFits ∧
    (([1, 2, 3, 4] : List Byte).length % 3 ≠ 0 ∧ (ready .fault (some 4) [1, 2, 3, 4]).params.tailPolicy = .fault) ∧
    (ready .drop (some 4) [1, 2, 3, 4]).params.tailPolicy = .drop ∧
    (ready .drop (some 4) [1, 2, 3, 4]).outputFits (4 * (([1, 2, 3, 4] : List Byte).length / 3)) ∧
    ([] : List Byte).length % 3 = 0 ∧ ([1, 2, 3] : List Byte).length % 3 = 0 :=
  ⟨ready_built _ _ _, by decide, by decide, rfl, by decide, by decide, by decide⟩

theorem witness_DropIgnoresTheTail : (ready .drop (some 5) [1, 2, 3, 4, 5]).params.tailPolicy = .drop ∧
    (ready .drop (some 5) [1, 2, 3, 4, 5]).inputFits ∧ (ready .drop (some 5) [1, 2, 3, 4, 5]).outputFits 4 := by
  decide +kernel

theorem witness_FaultRejectsTheTail : ((ready .fault none [1]).params.tailPolicy = .fault ∧ (ready .fault none [1]).inputFits ∧
    ([1] : List Byte).length % 3 ≠ 0) ∧ ([1, 2, 3] : List Byte).length % 3 = 0 ∧
    ∃ t, exec (.b64enc .bytes) (ready .fault none [1, 2, 3]) = .next t :=
  ⟨by decide, by decide, ⟨_, ready_next _ _ _⟩⟩

/-- A short string (D9), a bad character at full length (D13), the empty string (D3), and one group (D1). -/
theorem witness_B64decMeaning : (ready .fault (some 4) (ascii "AAAA")).TablesBuilt ∧
    (ready .fault (some 4) (ascii "AAAA")).inputFits ∧ (ascii "AAA").length % 4 ≠ 0 ∧
    (∃ c ∈ ascii "AA==", isB64 c = false) ∧
    (([] : List Byte).length % 4 = 0 ∧ ∀ c ∈ ([] : List Byte), isB64 c = true) ∧
    ((ascii "AAAA").length % 4 = 0 ∧ ∀ c ∈ ascii "AAAA", isB64 c = true) ∧
    (ready .fault (some 4) (ascii "AAAA")).outputFits (3 * ((ascii "AAAA").length / 4)) :=
  ⟨ready_built _ _ _, by decide, by decide, by decide, by decide, by decide, by decide⟩

/-- A reverse table that differs from reset's at `=`, a code outside the alphabet. -/
theorem witness_B64decNeverReadsOutsideTheAlphabet :
    (∀ c : Byte, isB64 c = true → readByByte (b64revContents.set 0x3D 1) c = readByByte b64revContents c) ∧
    ∃ t, exec (.b64dec .string) (ready .fault none (ascii "AAAA")) = .next t := by
  refine ⟨fun c hc => ?_, ⟨_, ready_next _ _ _⟩⟩
  have hne : (0x3D : Nat) ≠ c.toNat := by
    intro h
    have : c = 0x3D#8 := BitVec.eq_of_toNat_eq h.symm
    subst this
    exact absurd hc (by decide)
  simp only [readByByte]
  exact Vector.getElem_set_ne (by decide) c.isLt hne

theorem witness_Base64RoundTrip :
    let s := ready .drop none [1, 2, 3, 4]
    let t := s.withResponse (responseOf (.b64enc .bytes) s)
    s.TablesBuilt ∧ exec (.b64enc .bytes) s = .next t ∧ t.status = .ok ∧ (ready .drop none t.obuf).TablesBuilt ∧
      (ready .drop none t.obuf).ibuf = t.obuf ∧ (ready .drop none t.obuf).inputFits ∧
      (ready .drop none t.obuf).outputFits (3 * (s.ibuf.length / 3)) ∧ ([1, 2, 3] : List Byte).length % 3 = 0 :=
  ⟨ready_built _ _ _, ready_next _ _ _, by decide, ready_built _ _ _, rfl, withinMaxLen_none rfl _,
    withinMaxLen_none rfl _, by decide⟩

theorem witness_Base64ConverseRoundTrip :
    let s := ready .fault none (ascii "TWFu")
    let t := s.withResponse (responseOf (.b64dec .string) s)
    s.TablesBuilt ∧ exec (.b64dec .string) s = .next t ∧ t.status = .ok ∧ (ready .fault none t.obuf).TablesBuilt ∧
      (ready .fault none t.obuf).ibuf = t.obuf ∧ (ready .fault none t.obuf).inputFits ∧
      (ready .fault none t.obuf).outputFits s.ibuf.length :=
  ⟨ready_built _ _ _, ready_next _ _ _, by decide, ready_built _ _ _, rfl, withinMaxLen_none rfl _,
    withinMaxLen_none rfl _⟩

theorem witness_Base64WireFormat : (ready .fault none [1, 2, 3]).TablesBuilt ∧
    ∃ t, exec (.b64enc .bytes) (ready .fault none [1, 2, 3]) = .next t ∧ t.status = .ok :=
  ⟨ready_built _ _ _, ⟨_, ready_next _ _ _, by decide⟩⟩

theorem witness_Base64FixedPoints : (ready .fault (some 4) [0, 0, 0]).TablesBuilt ∧ (ready .fault (some 4) [0, 0, 0]).inputFits ∧
    (ready .fault (some 4) [0, 0, 0]).outputFits 4 ∧ (ready .fault (some 4) [0, 0, 0]).ibuf = [0, 0, 0] ∧
    (ready .fault (some 4) [255, 255, 255]).ibuf = [255, 255, 255] :=
  ⟨ready_built _ _ _, by decide, by decide, rfl, rfl⟩

theorem witness_WrongKindRaisesTypeError : (ready .fault none []).inputFits ∧
    (Instr.hexenc .string).kind ≠ expectedKind (.hexenc .string) ∧
    (Instr.b64dec .bytes).kind ≠ expectedKind (.b64dec .bytes) := by decide +kernel

/-- Every instruction answers a next state somewhere: the hypothesis of `TypeErrorExactlyOnWrongKind`, `LengthErrorExactly`,
`FormatErrorExactly`, `StatusesOfEachInstruction`, `OutputKindOfEachInstruction` and `CommandsChangeOnlyTheResponse`. -/
theorem witness_ExecAnswersNext (i : Instr) : ∃ t, exec i (ready .fault none uuid) = .next t := ⟨_, ready_next _ _ _⟩

/-- Every status is one of an instruction's own. -/
theorem witness_StatusesOfEachInstruction : .error .lengthError ∈ allowedStatuses .fault (.b64enc .bytes) ∧
    Status.ok ∈ allowedStatuses .drop (.b64enc .bytes) ∧ .error .formatError ∈ allowedStatuses .drop (.hexdec .string) := by
  decide

/-- A command waiting and the step it makes: the hypotheses of `IllegalCommandExactlyOnReservedWords`,
`ResponseHasOneOfTwoShapes` and (from two states) `ResponseDependsOnTheCommandAlone`. -/
theorem witness_ResponseDependsOnTheCommandAlone :
    let c : Command := { word := 0x02, input := [1, 2, 3] }
    let s := (ready .fault none []).issue c
    let s' := (ready .fault none uuid).issue c
    s.TablesBuilt ∧ s'.TablesBuilt ∧ s.params = s'.params ∧ s.host = [.issue c] ∧ s'.host = [.issue c] ∧
      (∃ t, step s = .next t) ∧ ∃ t', step s' = .next t' :=
  ⟨contents_built _ rfl rfl rfl, contents_built _ rfl rfl rfl, rfl, rfl, rfl, ⟨_, ready_step _ _ _ (.b64enc .bytes) (by decide)⟩,
    ⟨_, ready_step _ _ _ (.b64enc .bytes) (by decide)⟩⟩

theorem witness_EveryStepKeepsTheInvariant :
    let s := (ready .fault none []).issue { word := 0x02, input := [1, 2, 3] }
    s.Inv ∧ ∃ t, step s = .next t :=
  ⟨⟨contents_built _ rfl rfl rfl, done_shaped .bytes [], withinMaxLen_none rfl _⟩,
    ⟨_, ready_step _ _ _ (.b64enc .bytes) (by decide)⟩⟩

theorem witness_RunObservesEachCommandAlone : ({ tailPolicy := .drop, maxLen := none } : Params).maxLen = none ∧
    (ready .drop none []).TablesBuilt ∧ (ready .drop none []).params = { tailPolicy := .drop, maxLen := none } :=
  ⟨rfl, ready_built _ _ _, rfl⟩

theorem witness_HostReadsExactlyTheOutput :
    let s := { ready .fault none [] with olen := 1, obuf := [0x0a] }
    s.Inv ∧ 0 < s.olen ∧ s.olen ≤ 1 :=
  ⟨⟨contents_built _ rfl rfl rfl, ⟨rfl, .inl rfl⟩, withinMaxLen_none rfl _⟩, by decide, by decide⟩

end Sys2Proof.Tests
end

namespace Sys2Proof.Machine

/-- The same state in a build with no `MAX_LEN`, the reference value (00_scope.md R8). -/
def State.unbounded (s : State) : State := { s with params := { s.params with maxLen := none } }

/-- A response is computed from the tables, the payload and the tail policy: no instruction reads `MAX_LEN`, so a bound
never changes what it would answer (00_scope.md R8). -/
@[simp] theorem responseOf_unbounded (i : Instr) (s : State) : responseOf i s.unbounded = responseOf i s := by
  cases i <;> rfl

/-- With no bound, every instruction ends with its response. -/
theorem exec_unbounded (i : Instr) (s : State) :
    exec i s.unbounded = .next (s.unbounded.withResponse (responseOf i s)) := by
  rw [exec_of_fits (withinMaxLen_none rfl _) (withinMaxLen_none rfl _), responseOf_unbounded]

/-- An instruction is refused exactly when its input or its output exceeds `MAX_LEN`, and for that one reason. -/
theorem exec_refused_iff {i : Instr} {s : State} {why : Refusal} :
    exec i s = .refused why ↔ ¬ (s.inputFits ∧ s.outputFits (responseOf i s).olen) ∧ why = .exceedsMaxLen := by
  rw [exec_eq_respond, respond_refused_iff]

/-- Settles O11: the witness is the response of the unbounded build; the bounded one writes that same response or is
refused, according to the same two lengths. -/
theorem boundedBuildRefusesAndNeverTruncates : Obligations.BoundedBuildRefusesAndNeverTruncates := by
  intro i s m hm
  refine ⟨_, exec_unbounded i s, ?_, ?_⟩
  · rintro ⟨hin, hout⟩
    exact exec_of_fits ((withinMaxLen_some hm _).2 hin) ((withinMaxLen_some hm _).2 hout)
  · intro hexceeds
    refine exec_refused_iff.2 ⟨?_, rfl⟩
    rintro ⟨hin, hout⟩
    rcases hexceeds with h | h
    · exact absurd ((withinMaxLen_some hm _).1 hin) (Nat.not_le.2 h)
    · exact absurd ((withinMaxLen_some hm _).1 hout) (Nat.not_le.2 h)

end Sys2Proof.Machine

/-! ### The family of 10_state.md: how a response can look, what a step keeps, the tables reset leaves -/

namespace Sys2Proof.Machine

/-! #### The two ends of a command -/

/-- The kind of the output an instruction leaves on normal completion (10_state.md R17). -/
def outputKind : Instr → Kind
  | .hexenc _ => .string
  | .hexencu _ => .string
  | .hexdec _ => .bytes
  | .b64enc _ => .string
  | .b64dec _ => .bytes

/-- A command ends in an error, or normally with an output of kind `k` (10_state.md R20, 60_exceptions.md R106). -/
def Response.EndsAs (k : Kind) (r : Response) : Prop := (∃ e, r = raise e) ∨ ∃ out, r = done k out

theorem raise_endsAs (k : Kind) (e : ErrorKind) : (raise e).EndsAs k := .inl ⟨e, rfl⟩

theorem done_endsAs (k : Kind) (out : List Byte) : (done k out).EndsAs k := .inr ⟨out, rfl⟩

/-- A check that raises on failure, before the rest of a response. -/
theorem ite_raise_endsAs {k : Kind} {r : Response} (p : Prop) [Decidable p] (e : ErrorKind) (h : r.EndsAs k) :
    (if p then raise e else r).EndsAs k := by
  split
  · exact raise_endsAs k e
  · exact h

theorem expectKind_endsAs {k want got : Kind} {r : Response} (h : r.EndsAs k) : (expectKind want got r).EndsAs k := by
  unfold expectKind
  split
  · exact h
  · exact raise_endsAs k _

/-- How an instruction's response can look: every instruction is its checks, each of which may raise, and then its output. -/
theorem responseOf_endsAs (i : Instr) (s : State) : (responseOf i s).EndsAs (outputKind i) := by
  cases i with
  | hexenc k => exact expectKind_endsAs (ite_raise_endsAs _ _ (done_endsAs _ _))
  | hexencu k => exact expectKind_endsAs (ite_raise_endsAs _ _ (done_endsAs _ _))
  | hexdec k => exact expectKind_endsAs (ite_raise_endsAs _ _ (ite_raise_endsAs _ _ (done_endsAs _ _)))
  | b64enc k => exact expectKind_endsAs (ite_raise_endsAs _ _ (done_endsAs _ _))
  | b64dec k => exact expectKind_endsAs (ite_raise_endsAs _ _ (ite_raise_endsAs _ _ (done_endsAs _ _)))

theorem Response.EndsAs.shaped {k : Kind} {r : Response} (h : r.EndsAs k) : r.Shaped := by
  rcases h with ⟨e, rfl⟩ | ⟨out, rfl⟩
  · exact raise_shaped e
  · exact done_shaped k out

/-- Only a success can leave an output of another kind than `bytes`. -/
theorem Response.EndsAs.okind_eq {k : Kind} {r : Response} (h : r.EndsAs k) :
    r.okind = if r.status = .ok then k else .bytes := by
  rcases h with ⟨e, rfl⟩ | ⟨out, rfl⟩ <;> rfl

/-! #### The response of a command word -/

theorem commandResponse_of_instr {w : Byte} {i : Instr} (h : decode w = .instr i) (s : State) :
    commandResponse w s = responseOf i s := by
  simp only [commandResponse, h]

theorem commandResponse_of_reserved {w : Byte} {why : Reserved} (h : decode w = .reserved why) (s : State) :
    commandResponse w s = raise .illegalCommand := by
  simp only [commandResponse, h]

theorem commandResponse_shaped (w : Byte) (s : State) : (commandResponse w s).Shaped := by
  cases h : decode w with
  | instr i =>
    rw [commandResponse_of_instr h]
    exact (responseOf_endsAs i s).shaped
  | reserved why =>
    rw [commandResponse_of_reserved h]
    exact raise_shaped _

/-- The response a step with a command waiting leaves. -/
theorem step_issue_response {s t : State} {c : Command} {rest : List HostEvent} (hh : s.host = .issue c :: rest)
    (h : step s = .next t) : t.response = commandResponse c.word (s.accept c rest) := by
  rw [step_issue hh, respond_next_iff] at h
  rw [h.2, withResponse_response]

/-! #### The invariant -/

theorem takeReset_tablesBuilt (s : State) (a : Option Command) (rest : List HostEvent) :
    (s.takeReset a rest).TablesBuilt := by
  cases a <;> exact contents_built _ rfl rfl rfl

@[simp] theorem takeReset_olen (s : State) (a : Option Command) (rest : List HostEvent) :
    (s.takeReset a rest).olen = 0 := by
  cases a <;> rfl

/-- A reset meets the invariant whatever the state before it. -/
theorem takeReset_inv (s : State) (a : Option Command) (rest : List HostEvent) : (s.takeReset a rest).Inv where
  tables := takeReset_tablesBuilt s a rest
  shaped := by rw [takeReset_response]; exact done_shaped _ _
  bounded := by rw [takeReset_olen]; exact withinMaxLen_zero _

/-- Accepting a command leaves the tables as they are. -/
theorem accept_tablesBuilt {s : State} (h : s.TablesBuilt) (c : Command) (rest : List HostEvent) :
    (s.accept c rest).TablesBuilt := h

/-- Writing a shaped response within `MAX_LEN` leaves the tables as they are and meets the rest of the invariant. -/
theorem withResponse_inv {s : State} {r : Response} (ht : s.TablesBuilt) (hr : r.Shaped) (ho : s.outputFits r.olen) :
    (s.withResponse r).Inv where
  tables := ht
  shaped := hr
  bounded := ho

/-- Settles O47: an idle step keeps the whole state, a reset builds the tables again and empties the response, and a command
writes a shaped response that the bound was checked against. -/
theorem everyStepKeepsTheInvariant : Obligations.EveryStepKeepsTheInvariant := by
  intro s t hinv hstep
  obtain ⟨-, rfl⟩ | ⟨a, rest, -, rfl⟩ | ⟨c, rest, -, ⟨-, hout⟩, rfl⟩ := step_cases hstep
  · exact hinv
  · exact takeReset_inv s a rest
  · exact withResponse_inv (accept_tablesBuilt hinv.tables c rest) (commandResponse_shaped _ _) hout

/-! #### What a step leaves unchanged -/

/-- Settles O9: each of the three things a step can do takes at most the head of the host's list. -/
theorem stepKeepsParametersAndHostOrder : Obligations.StepKeepsParametersAndHostOrder := by
  intro s t hstep
  obtain ⟨hh, rfl⟩ | ⟨a, rest, hh, rfl⟩ | ⟨c, rest, hh, -, rfl⟩ := step_cases hstep
  · exact ⟨rfl, by rw [hh, List.tail_nil]⟩
  · exact ⟨takeReset_params s a rest, by rw [hh, List.tail_cons, takeReset_host]⟩
  · exact ⟨rfl, by rw [hh, List.tail_cons, withResponse_host, accept_host]⟩

theorem withResponse_sameButResponse (s : State) (r : Response) : s.SameButResponse (s.withResponse r) :=
  ⟨rfl, rfl, rfl, rfl, rfl, rfl⟩

/-- Settles O46: an instruction that answers has written its response and nothing else. -/
theorem commandsChangeOnlyTheResponse : Obligations.CommandsChangeOnlyTheResponse := by
  intro i s t h
  obtain ⟨-, rfl⟩ := exec_next_iff.1 h
  exact withResponse_sameButResponse s _

/-- Settles O45: the kind of a success is the instruction's own, and an error writes `bytes`. -/
theorem outputKindOfEachInstruction : Obligations.OutputKindOfEachInstruction := by
  intro i s t h
  obtain ⟨-, rfl⟩ := exec_next_iff.1 h
  have hkind := (responseOf_endsAs i s).okind_eq
  cases i <;> exact hkind

/-! #### The response as a function of word, payload and parameters -/

theorem eq_of_readByByte_eq {α : Type} {t u : Vector α 256} (h : ∀ b, readByByte t b = readByByte u b) : t = u :=
  Vector.ext fun n hn => by simpa [readByByte, Nat.mod_eq_of_lt hn] using h (BitVec.ofNat 8 n)

theorem eq_of_readBySextet_eq {α : Type} {t u : Vector α 64} (h : ∀ v, readBySextet t v = readBySextet u v) : t = u :=
  Vector.ext fun n hn => by simpa [readBySextet, Nat.mod_eq_of_lt hn] using h (BitVec.ofNat 6 n)

/-- `HEXLUT` is specified at every entry (10_state.md R11). -/
theorem TablesBuilt_hexlut_unique {s s' : State} (hs : s.TablesBuilt) (hs' : s'.TablesBuilt) : s.hexlut = s'.hexlut :=
  eq_of_readByByte_eq fun b => (hs.1 b).trans (hs'.1 b).symm

/-- `B64ALPHA` is specified at every entry (10_state.md R13). -/
theorem TablesBuilt_b64alpha_unique {s s' : State} (hs : s.TablesBuilt) (hs' : s'.TablesBuilt) :
    s.b64alpha = s'.b64alpha :=
  eq_of_readBySextet_eq fun v => (hs.2.1 v).trans (hs'.2.1 v).symm

/-- `B64REV` is specified at the alphabet codes only (10_state.md R14). -/
theorem TablesBuilt_b64rev_agree {s s' : State} (hs : s.TablesBuilt) (hs' : s'.TablesBuilt) (c : Byte)
    (hc : isB64 c = true) : readByByte s.b64rev c = readByByte s'.b64rev c :=
  (TablesBuilt_rev hs hc).trans (TablesBuilt_rev hs' hc).symm

section
variable {rev rev' : Vector Sextet 256} (hrev : ∀ c, isB64 c = true → readByByte rev c = readByByte rev' c)
include hrev

/-- The loop of `B64DEC` over alphabet codes reads no other entry of its table. -/
theorem b64DecodeGroups_congr :
    ∀ input : List Byte, (∀ c ∈ input, isB64 c = true) → b64DecodeGroups rev input = b64DecodeGroups rev' input
  | [], _ => rfl
  | [_], _ => rfl
  | [_, _], _ => rfl
  | [_, _, _], _ => rfl
  | c0 :: c1 :: c2 :: c3 :: rest, h => by
    simp only [List.forall_mem_cons] at h
    obtain ⟨h0, h1, h2, h3, hrest⟩ := h
    have hgroup : b64Bytes rev c0 c1 c2 c3 = b64Bytes rev' c0 c1 c2 c3 := by
      simp only [b64Bytes, hrev _ h0, hrev _ h1, hrev _ h2, hrev _ h3]
    rw [b64DecodeGroups_cons, b64DecodeGroups_cons, hgroup, b64DecodeGroups_congr rest hrest]

/-- `B64DEC` checks every character before it reads its table, so only the alphabet entries count
(41_base64codec.md R86). -/
theorem b64decResponse_congr (k : Kind) (input : List Byte) :
    b64decResponse rev k input = b64decResponse rev' k input := by
  cases k with
  | bytes => rfl
  | string =>
    by_cases hbad : input.length % 4 ≠ 0 ∨ ∃ c ∈ input, isB64 c = false
    · rw [b64decResponse_bad hbad, b64decResponse_bad hbad]
    · obtain ⟨hlen, hchars⟩ : input.length % 4 = 0 ∧ ∀ c ∈ input, isB64 c = true := by simpa using hbad
      rw [b64decResponse_ok hlen hchars, b64decResponse_ok hlen hchars, b64DecodeGroups_congr hrev input hchars]

end

section
variable {s s' : State} (hs : s.TablesBuilt) (hs' : s'.TablesBuilt) (hparams : s.params = s'.params)
  (hibuf : s.ibuf = s'.ibuf)
include hs hs' hparams hibuf

/-- With the tables built, a response is a function of the instruction, the payload and the parameters
(10_state.md R25). -/
theorem responseOf_congr (i : Instr) : responseOf i s = responseOf i s' := by
  have hlut := TablesBuilt_hexlut_unique hs hs'
  have halpha := TablesBuilt_b64alpha_unique hs hs'
  have hrev := TablesBuilt_b64rev_agree hs hs'
  cases i with
  | hexenc k => simp only [responseOf, hlut, hibuf]
  | hexencu k => simp only [responseOf, hlut, hibuf]
  | hexdec k => simp only [responseOf, hibuf]
  | b64enc k => simp only [responseOf, halpha, hparams, hibuf]
  | b64dec k => simp only [responseOf, hibuf, b64decResponse_congr hrev]

theorem commandResponse_congr (w : Byte) : commandResponse w s = commandResponse w s' := by
  cases h : decode w with
  | instr i => rw [commandResponse_of_instr h, commandResponse_of_instr h, responseOf_congr hs hs' hparams hibuf]
  | reserved why => rw [commandResponse_of_reserved h, commandResponse_of_reserved h]

end

/-- Settles O49: the two states that accept the command hold the same payload and parameters, and tables that agree wherever
they are specified. -/
theorem responseDependsOnTheCommandAlone : Obligations.ResponseDependsOnTheCommandAlone := by
  intro s s' t t' c rest rest' hs hs' hparams hhost hhost' hstep hstep'
  rw [step_issue_response hhost hstep, step_issue_response hhost' hstep']
  exact commandResponse_congr (accept_tablesBuilt hs c rest) (accept_tablesBuilt hs' c rest') hparams rfl c.word

/-- Settles O6: accepting the command is the state the statement writes out, and both sides end with the instruction's
response there. -/
theorem stepRunsTheDecodedInstruction : Obligations.StepRunsTheDecodedInstruction := by
  intro s c rest i hhost hdecode
  rw [step_issue hhost, commandResponse_of_instr hdecode, ← exec_eq_respond]
  rfl

/-! #### Reset and the tables -/

theorem reset_tablesBuilt : State.reset.TablesBuilt := contents_built _ rfl rfl rfl

/-- Settles O12. -/
theorem resetState : Obligations.ResetState := by
  obtain ⟨hlut, halpha, hrev⟩ := reset_tablesBuilt
  exact ⟨hlut, halpha, hrev, rfl, rfl, rfl, rfl⟩

/-- Settles O48: reset builds the tables and leaves the empty success. -/
theorem resetMeetsTheInvariant : Obligations.ResetMeetsTheInvariant where
  tables := reset_tablesBuilt
  shaped := by rw [reset_response]; exact done_shaped _ _
  bounded := withinMaxLen_zero _

theorem hexchar_of_le_nine {d : Nat} (h : d ≤ 9) : hexchar d = BitVec.ofNat 8 (0x30 + d) := if_pos h

theorem hexchar_of_ten_le {d : Nat} (h : 10 ≤ d) : hexchar d = BitVec.ofNat 8 (0x61 + (d - 10)) :=
  if_neg (Nat.not_le.2 h)

/-- Settles O13. -/
theorem hexcharIsTheLowercaseDigit : Obligations.HexcharIsTheLowercaseDigit :=
  fun _ => ⟨hexchar_of_le_nine, fun h _ => hexchar_of_ten_le h⟩

/-- The code of an alphabet character as a number: none of the closed forms of 10_state.md R13 passes 8 bits. -/
theorem b64char_toNat {v : Nat} (hv : v < 64) : (b64char v).toNat =
    if v ≤ 25 then 0x41 + v
    else if v ≤ 51 then 0x61 + (v - 26)
    else if v ≤ 61 then 0x30 + (v - 52)
    else if v = 62 then 0x2D else 0x5F := by
  unfold b64char
  split_ifs
  · exact Nat.mod_eq_of_lt (by omega)
  · exact Nat.mod_eq_of_lt (by omega)
  · exact Nat.mod_eq_of_lt (by omega)
  · rfl
  · rfl

/-- The alphabet has no character twice, since a character gives its index back. -/
theorem b64char_injective : Function.Injective fun v : Sextet => b64char v.toNat := by
  have hinv : Function.LeftInverse (fun c => BitVec.ofNat 6 (b64value c)) fun v : Sextet => b64char v.toNat :=
    b64value_b64char
  exact hinv.injective

/-- Settles O14. -/
theorem alphabetInClosedForm : Obligations.AlphabetInClosedForm := by
  obtain ⟨-, halpha, -⟩ := reset_tablesBuilt
  refine ⟨fun v => ?_, fun v w h => ?_⟩
  · rw [halpha]
    exact b64char_toNat v.isLt
  · rw [halpha, halpha] at h
    exact b64char_injective h

theorem isUpper_iff (c : Byte) : isUpper c = true ↔ 0x41 ≤ c.toNat ∧ c.toNat ≤ 0x5A := by
  simp [isUpper, BitVec.le_def]

theorem isLower_iff (c : Byte) : isLower c = true ↔ 0x61 ≤ c.toNat ∧ c.toNat ≤ 0x7A := by
  simp [isLower, BitVec.le_def]

theorem isDigit_iff (c : Byte) : isDigit c = true ↔ 0x30 ≤ c.toNat ∧ c.toNat ≤ 0x39 := by
  simp [isDigit, BitVec.le_def]

/-- With the tables built, `B64REV` gives an alphabet code its value as a number. -/
theorem TablesBuilt_rev_toNat {s : State} (h : s.TablesBuilt) {c : Byte} (hc : isB64 c = true) :
    (readByByte s.b64rev c).toNat = b64value c := by
  rw [TablesBuilt_rev h hc, BitVec.toNat_ofNat, Nat.mod_eq_of_lt (b64value_lt c hc)]

/-! The value of an alphabet code, class by class: the classes are apart, so each is the first one `b64value` finds. -/

theorem b64value_of_isUpper {c : Byte} (h : isUpper c = true) : b64value c = c.toNat - 0x41 := if_pos h

theorem b64value_of_isLower {c : Byte} (h : isLower c = true) : b64value c = c.toNat - 0x61 + 26 := by
  have hup : ¬ isUpper c = true := by rw [isUpper_iff]; have := (isLower_iff c).1 h; omega
  rw [b64value, if_neg hup, if_pos h]

theorem b64value_of_isDigit {c : Byte} (h : isDigit c = true) : b64value c = c.toNat - 0x30 + 52 := by
  have hup : ¬ isUpper c = true := by rw [isUpper_iff]; have := (isDigit_iff c).1 h; omega
  have hlow : ¬ isLower c = true := by rw [isLower_iff]; have := (isDigit_iff c).1 h; omega
  rw [b64value, if_neg hup, if_neg hlow, if_pos h]

/-- Settles O15: a code of each class passes `isB64`, so the table holds its value, which is the closed form of its class. -/
theorem reverseTableInvertsTheAlphabet : Obligations.ReverseTableInvertsTheAlphabet := by
  obtain ⟨-, halpha, hrev⟩ := reset_tablesBuilt
  refine ⟨fun v => by rw [halpha, hrev], fun c => ⟨fun h1 h2 => ?_, fun h1 h2 => ?_, fun h1 h2 => ?_, fun h => ?_,
    fun h => ?_⟩⟩
  · have hc := (isUpper_iff c).2 ⟨h1, h2⟩
    rw [TablesBuilt_rev_toNat reset_tablesBuilt (by simp [isB64, hc]), b64value_of_isUpper hc]
  · have hc := (isLower_iff c).2 ⟨h1, h2⟩
    rw [TablesBuilt_rev_toNat reset_tablesBuilt (by simp [isB64, hc]), b64value_of_isLower hc]
  · have hc := (isDigit_iff c).2 ⟨h1, h2⟩
    rw [TablesBuilt_rev_toNat reset_tablesBuilt (by simp [isB64, hc]), b64value_of_isDigit hc]
  · obtain rfl : c = 0x2D#8 := BitVec.eq_of_toNat_eq h
    exact TablesBuilt_rev_toNat reset_tablesBuilt (by decide)
  · obtain rfl : c = 0x5F#8 := BitVec.eq_of_toNat_eq h
    exact TablesBuilt_rev_toNat reset_tablesBuilt (by decide)

/-! #### The host's read of the output -/

theorem readObuf_of_lt {s : State} {j : Nat} {b : Byte} (hj : j < s.olen) (hb : s.obuf[j]? = some b) :
    readObuf s j = .next b := by
  simp only [readObuf, if_pos hj, hb]

theorem readObuf_of_olen_le {s : State} {j : Nat} (hj : s.olen ≤ j) : readObuf s j = .refused .outputElementAbsent := by
  simp only [readObuf, if_neg (Nat.not_lt.2 hj)]

/-- Settles O51: under the invariant `OBUF` has exactly `OLEN` elements. -/
theorem hostReadsExactlyTheOutput : Obligations.HostReadsExactlyTheOutput := by
  intro s hinv
  have hlen : s.olen = s.obuf.length := hinv.shaped.1
  refine ⟨fun j hj => ?_, fun j hj => readObuf_of_olen_le hj⟩
  have hb : s.obuf[j]? = some (s.obuf[j]'(hlen ▸ hj)) := List.getElem?_eq_getElem _
  exact ⟨_, hb, readObuf_of_lt hj hb⟩

end Sys2Proof.Machine

/-! ### The family of 20_memory.md: a base64 group as one 24-bit number -/

namespace Sys2Proof.Machine

/-- The four 6-bit values of a 24-bit group, most significant first (20_memory.md R35). -/
def sextetsOf (x : BitVec 24) : Sextet × Sextet × Sextet × Sextet :=
  (x.extractLsb' 18 6, x.extractLsb' 12 6, x.extractLsb' 6 6, x.extractLsb' 0 6)

/-- The three bytes of a 24-bit group, most significant first (20_memory.md R35). -/
def bytesOf (x : BitVec 24) : Byte × Byte × Byte :=
  (x.extractLsb' 16 8, x.extractLsb' 8 8, x.extractLsb' 0 8)

theorem sextetsOf_append (x : BitVec 24) :
    (sextetsOf x).1 ++ (sextetsOf x).2.1 ++ (sextetsOf x).2.2.1 ++ (sextetsOf x).2.2.2 = x := by
  simp only [sextetsOf]
  rw [BitVec.extractLsb'_append_extractLsb'_eq_extractLsb' (by rfl),
    BitVec.extractLsb'_append_extractLsb'_eq_extractLsb' (by rfl),
    BitVec.extractLsb'_append_extractLsb'_eq_extractLsb' (by rfl)]
  exact BitVec.extractLsb'_eq_self

theorem bytesOf_append (x : BitVec 24) : (bytesOf x).1 ++ (bytesOf x).2.1 ++ (bytesOf x).2.2 = x := by
  simp only [bytesOf]
  rw [BitVec.extractLsb'_append_extractLsb'_eq_extractLsb' (by rfl),
    BitVec.extractLsb'_append_extractLsb'_eq_extractLsb' (by rfl)]
  exact BitVec.extractLsb'_eq_self

/-- The masks of `pack3` and `unpack4` are `2 ^ k - 1`: they keep the low `k` bits. -/
theorem getLsbD_and_lowMask {w : Nat} (x : BitVec w) (k i : Nat) :
    (x &&& BitVec.ofNat w (2 ^ k - 1)).getLsbD i = (decide (i < k) && x.getLsbD i) := by
  rw [BitVec.getLsbD_and, BitVec.getLsbD_ofNat, Nat.testBit_two_pow_sub_one]
  grind

/-- The shifts and masks of `pack3` read the group's bits at the four slices of 20_memory.md R35. -/
theorem pack3_eq_sextetsOf (b1 b2 b3 : Byte) : pack3 b1 b2 b3 = sextetsOf (b1 ++ b2 ++ b3) := by
  simp only [pack3, sextetsOf, Prod.mk.injEq]
  refine ⟨?_, ?_, ?_, ?_⟩ <;> ext i hi
  · grind
  · have hmask : (b1 &&& 3#8).getLsbD (i - 4) = (decide (i - 4 < 2) && b1.getLsbD (i - 4)) :=
      getLsbD_and_lowMask b1 2 (i - 4)
    grind
  · have hmask : (b2 &&& 15#8).getLsbD (i - 2) = (decide (i - 2 < 4) && b2.getLsbD (i - 2)) :=
      getLsbD_and_lowMask b2 4 (i - 2)
    grind
  · have hmask : (b3 &&& 63#8).getLsbD i = (decide (i < 6) && b3.getLsbD i) := getLsbD_and_lowMask b3 6 i
    grind

/-- The shifts and masks of `unpack4` read the group's bits at the three slices of 20_memory.md R35. -/
theorem unpack4_eq_bytesOf (v0 v1 v2 v3 : Sextet) : unpack4 v0 v1 v2 v3 = bytesOf (v0 ++ v1 ++ v2 ++ v3) := by
  simp only [unpack4, bytesOf, Prod.mk.injEq]
  refine ⟨?_, ?_, ?_⟩ <;> ext i hi
  · grind
  · have hmask : (v1.setWidth 8 &&& 15#8).getLsbD (i - 4) = (decide (i - 4 < 4) && (v1.setWidth 8).getLsbD (i - 4)) :=
      getLsbD_and_lowMask (v1.setWidth 8) 4 (i - 4)
    grind
  · have hmask : (v2.setWidth 8 &&& 3#8).getLsbD (i - 6) = (decide (i - 6 < 2) && (v2.setWidth 8).getLsbD (i - 6)) :=
      getLsbD_and_lowMask (v2.setWidth 8) 2 (i - 6)
    grind

/-- Settles O27: each conversion cuts the group's 24-bit number into slices, and its slices in order are the number again. -/
theorem groupsKeepTheirBits : Obligations.GroupsKeepTheirBits := by
  refine ⟨fun b1 b2 b3 => ?_, fun v0 v1 v2 v3 => ?_⟩
  · rw [pack3_eq_sextetsOf]
    exact sextetsOf_append _
  · rw [unpack4_eq_bytesOf]
    exact bytesOf_append _

end Sys2Proof.Machine

/-! ### The family of 30_encoding.md: the command word, the text of a command, and the observation of a run -/

namespace Sys2Proof.Machine

/-! #### The fields of a command word -/

theorem ofBit_kindBit (k : Kind) : Kind.ofBit (k.bit.getLsbD 0) = k := by
  cases k <;> rfl

theorem kindBit_ofBit (b : Bool) : (Kind.ofBit b).bit = BitVec.ofBool b := by
  cases b <;> rfl

/-- The four fields of a word stand at the bit positions they are read from (30_encoding.md R46). -/
theorem ofWord_toWord (f : CmdFields) : CmdFields.ofWord f.toWord = f := by
  obtain ⟨op, u, k, zero⟩ := f
  have hu : (zero ++ k.bit ++ BitVec.ofBool u ++ op).getLsbD 2 = u := by grind
  have hk : (zero ++ k.bit ++ BitVec.ofBool u ++ op).getLsbD 3 = k.bit.getLsbD 0 := by grind
  simp only [CmdFields.ofWord, CmdFields.toWord, CmdFields.mk.injEq, hu, hk, ofBit_kindBit, true_and]
  constructor <;> ext i hi <;> grind

/-- Nothing of a word stands outside its four fields (30_encoding.md R46). -/
theorem toWord_ofWord (w : Byte) : (CmdFields.ofWord w).toWord = w := by
  simp only [CmdFields.ofWord, CmdFields.toWord, kindBit_ofBit]
  ext i hi
  grind

theorem decode_fields (i : Instr) : i.fields.decode = .instr i := by
  cases i <;> rfl

/-- The fields that select an instruction are the instruction's own: one branch of the decoder for each instruction, the
last with the `op` that is left. -/
theorem fields_of_decode {f : CmdFields} {i : Instr} (h : f.decode = .instr i) : i.fields = f := by
  obtain ⟨op, u, k, zero⟩ := f
  have hlast : ∀ op : BitVec 2, op ≠ 0 → op ≠ 1 → op ≠ 2 → op = 3 := by decide
  unfold CmdFields.decode at h
  split_ifs at h with hzero hop hu hu h1 h2 <;> obtain rfl := Decoded.instr.inj h <;>
    simp_all [Instr.fields]

/-- A word decodes to an instruction exactly when it is the instruction's word. -/
theorem decode_eq_instr_iff {w : Byte} {i : Instr} : decode w = .instr i ↔ encode i = w := by
  constructor
  · intro h
    rw [encode, fields_of_decode h, toWord_ofWord]
  · rintro rfl
    rw [decode, encode, ofWord_toWord, decode_fields]

/-- Settles O1: an instruction and its fields determine each other, and so do the fields and their word. -/
theorem decodeAndEncodeAgree : Obligations.DecodeAndEncodeAgree :=
  ⟨fun _ _ => decode_eq_instr_iff.2 rfl, fun _ _ => decode_eq_instr_iff.1⟩

/-! #### Reading back a payload literal -/

/-- The elements written for a byte-buffer literal read back, up to its closing bracket: a space stands before each value
but the first, so that each may start. -/
theorem readBytes_writeBytes (rest : List Byte) :
    ∀ input : List Byte, readBytes true (writeBytes input ++ 0x5D#8 :: rest) = some (input, rest)
  | [] => readBytes_close true rest
  | [b] => by
    obtain ⟨hvalue, hclose, hspace⟩ := twoDigits_hexPairOf b
    simp [writeBytes, writeByte, readBytes_value _ hvalue hclose hspace]
  | b :: b' :: input => by
    obtain ⟨hvalue, hclose, hspace⟩ := twoDigits_hexPairOf b
    simp [writeBytes, writeByte, readBytes_value _ hvalue hclose hspace, readBytes_writeBytes rest (b' :: input)]

/-- One element written for a string literal reads back: escaped, as itself, or in hex digits. -/
theorem readString_writeChar (c : Byte) (t : List Byte) :
    readString (writeChar c ++ t) = (readString t).map fun r => (c :: r.1, r.2) := by
  unfold writeChar
  split_ifs with hescaped hprintable
  · exact readString_escape t (by simpa using hescaped)
  · have hlinefeed : c ≠ 0x0A#8 := by rintro rfl; exact absurd hprintable (by decide)
    obtain ⟨hquote, hbackslash⟩ : c ≠ 0x22#8 ∧ c ≠ 0x5C#8 := by simpa using hescaped
    exact readString_plain t hquote hlinefeed hbackslash
  · exact readString_code t (twoDigits_hexPairOf c).1

/-- The elements written for a string literal read back, up to its closing quote. -/
theorem readString_flatMap_writeChar (input rest : List Byte) :
    readString (input.flatMap writeChar ++ 0x22#8 :: rest) = some (input, rest) := by
  induction input with
  | nil => exact readString_close rest
  | cons c input ih => rw [List.flatMap_cons, List.append_assoc, readString_writeChar, ih, Option.map_some]

theorem readLiteral_writeLiteral (k : Kind) (input rest : List Byte) :
    readLiteral (writeLiteral k input ++ rest) = some (k, input, rest) := by
  cases k with
  | bytes => simp [writeLiteral, readLiteral, readBytes_writeBytes]
  | string => simp [writeLiteral, readLiteral, readString_flatMap_writeChar]

theorem skipSpaces_of_ne_space {c : Byte} (h : c ≠ 0x20#8) (t : List Byte) : skipSpaces (c :: t) = c :: t := by
  simp [skipSpaces, h]

@[simp] theorem skipSpaces_space (t : List Byte) : skipSpaces (0x20#8 :: t) = skipSpaces t := rfl

/-- A literal starts with its letter, so there are no spaces to skip before it. -/
@[simp] theorem skipSpaces_writeLiteral (k : Kind) (input rest : List Byte) :
    skipSpaces (writeLiteral k input ++ rest) = writeLiteral k input ++ rest := by
  cases k <;> exact skipSpaces_of_ne_space (by decide) _

theorem readPayload_writeLiteral (k : Kind) (input : List Byte) {tail : List Byte} (htail : endsLine tail = true) :
    readPayload (writeLiteral k input ++ tail) = some (k, input) := by
  simp only [readPayload, skipSpaces_writeLiteral, readLiteral_writeLiteral, htail, if_true]

/-! #### Reading back a line -/

/-- A word of a line: what `assemble` takes for the mnemonic, when it stands first and a space follows. -/
structure IsWord (name : List Byte) : Prop where
  nonempty : name ≠ []
  noSpace : ∀ c ∈ name, (c != 0x20#8) = true

theorem IsWord.skipSpaces_append {name : List Byte} (h : IsWord name) (t : List Byte) :
    skipSpaces (name ++ t) = name ++ t := by
  cases name with
  | nil => exact absurd rfl h.nonempty
  | cons c name => exact skipSpaces_of_ne_space (by simpa using h.noSpace c List.mem_cons_self) _

theorem IsWord.takeWhile_append {name : List Byte} (h : IsWord name) (t : List Byte) :
    (name ++ 0x20#8 :: t).takeWhile (· != 0x20#8) = name := by
  rw [List.takeWhile_append_of_pos h.noSpace, List.takeWhile_cons_of_neg (by decide), List.append_nil]

theorem IsWord.dropWhile_append {name : List Byte} (h : IsWord name) (t : List Byte) :
    (name ++ 0x20#8 :: t).dropWhile (· != 0x20#8) = 0x20#8 :: t := by
  rw [List.dropWhile_append_of_pos h.noSpace, List.dropWhile_cons_of_neg (by decide)]

/-- A line in the mnemonic form (30_encoding.md R56). -/
theorem assemble_mnemonic {name : List Byte} (hword : IsWord name) (hcmd : name ≠ ascii ".cmd") (k : Kind)
    (input : List Byte) {tail : List Byte} (htail : endsLine tail = true) :
    assemble (name ++ 0x20#8 :: (writeLiteral k input ++ tail)) =
      (instrNamed name k).map fun i => { word := encode i, input := input } := by
  simp only [assemble, hword.skipSpaces_append, hword.takeWhile_append, hword.dropWhile_append, if_neg hcmd,
    skipSpaces_space, skipSpaces_writeLiteral, readPayload_writeLiteral k input htail]

theorem ascii_cmd_isWord : IsWord (ascii ".cmd") := ⟨by decide +kernel, by decide +kernel⟩

/-- A line in the `.cmd` form (30_encoding.md R56). -/
theorem assemble_cmd (w : Byte) (k : Kind) (input : List Byte) {tail : List Byte} (htail : endsLine tail = true) :
    assemble (ascii ".cmd" ++ 0x20#8 :: 0x30#8 :: 0x78#8 :: (writeByte w ++ 0x20#8 :: (writeLiteral k input ++ tail))) =
      some { word := w, input := input } := by
  have hzero : ∀ t, skipSpaces (0x30#8 :: t) = 0x30#8 :: t := skipSpaces_of_ne_space (by decide)
  simp [assemble, ascii_cmd_isWord.skipSpaces_append, ascii_cmd_isWord.takeWhile_append,
    ascii_cmd_isWord.dropWhile_append, hzero, writeByte, (twoDigits_hexPairOf w).1,
    readPayload_writeLiteral k input htail]

theorem ascii_mnemonic_isWord (i : Instr) : IsWord (ascii i.mnemonic) := by
  constructor <;> cases i <;> simp only [Instr.mnemonic] <;> decide +kernel

theorem ascii_mnemonic_ne_cmd (i : Instr) : ascii i.mnemonic ≠ ascii ".cmd" := by
  cases i <;> simp only [Instr.mnemonic] <;> decide +kernel

theorem instrNamed_mnemonic (i : Instr) : instrNamed (ascii i.mnemonic) i.kind = some i := by
  rcases i with k | k | k | k | k <;> cases k <;> decide +kernel

theorem disassemble_of_instr {c : Command} {i : Instr} (h : decode c.word = .instr i) (tail : List Byte) :
    disassemble c ++ tail = ascii i.mnemonic ++ 0x20#8 :: (writeLiteral i.kind c.input ++ tail) := by
  simp [disassemble, h]

theorem disassemble_of_reserved {c : Command} {why : Reserved} (h : decode c.word = .reserved why) (tail : List Byte) :
    disassemble c ++ tail = ascii ".cmd" ++ 0x20#8 :: 0x30#8 :: 0x78#8 ::
      (writeByte c.word ++ 0x20#8 :: (writeLiteral .bytes c.input ++ tail)) := by
  have hcmd : ascii ".cmd 0x" = ascii ".cmd" ++ [0x20#8, 0x30#8, 0x78#8] := by decide +kernel
  simp [disassemble, h, hcmd]

/-- Settles O5: a legal word is written by its mnemonic, with `K` in the literal, and is the one word of that instruction;
a reserved word is written by its digits. -/
theorem assemblyReadsBackDisassembly : Obligations.AssemblyReadsBackDisassembly := by
  intro c tail htail
  cases h : decode c.word with
  | instr i =>
    rw [disassemble_of_instr h, assemble_mnemonic (ascii_mnemonic_isWord i) (ascii_mnemonic_ne_cmd i) _ _ htail,
      instrNamed_mnemonic, Option.map_some, decode_eq_instr_iff.1 h]
  | reserved why => rw [disassemble_of_reserved h, assemble_cmd _ _ _ htail]

/-! #### The observation of a run -/

/-- With no bound, a command issued alone ends with its response. -/
theorem step_issue_unbounded {s : State} (h : s.params.maxLen = none) (c : Command) :
    step (s.issue c) = .next ((s.accept c []).withResponse (commandResponse c.word (s.accept c []))) := by
  rw [step_issue (issue_host s c)]
  exact respond_of_fits (withinMaxLen_none h _) (withinMaxLen_none h _)

/-- The response of a command issued first after reset, in a build with parameters `p`. -/
def firstResponse (p : Params) (c : Command) : Response :=
  commandResponse c.word ({ State.reset with params := p }.accept c [])

theorem commandResponse_eq_firstResponse {s : State} (hs : s.TablesBuilt) (c : Command) :
    commandResponse c.word (s.accept c []) = firstResponse s.params c := by
  have hreset : ({ State.reset with params := s.params } : State).TablesBuilt := reset_tablesBuilt
  exact commandResponse_congr (accept_tablesBuilt hs c []) (accept_tablesBuilt hreset c []) rfl rfl c.word

/-- A command leaves the tables and the parameters to the next one, so each is answered as the first after reset. -/
theorem responses_eq_map_firstResponse (commands : List Command) {s : State} (hs : s.TablesBuilt)
    (hbound : s.params.maxLen = none) : responses commands s = some (commands.map (firstResponse s.params)) := by
  induction commands generalizing s with
  | nil => rfl
  | cons c rest ih =>
    simp only [responses, step_issue_unbounded hbound c, commandResponse_eq_firstResponse hs c]
    rw [ih (s := (s.accept c []).withResponse _) hs hbound]
    rfl

/-- Settles O50: the function is the response of each command after reset; its first property is the run of that one
command. -/
theorem runObservesEachCommandAlone : Obligations.RunObservesEachCommandAlone := by
  intro p hp
  have hrun : ∀ (commands : List Command) (s : State), s.TablesBuilt → s.params = p →
      responses commands s = some (commands.map (firstResponse p)) := by
    rintro commands s hs rfl
    exact responses_eq_map_firstResponse commands hs hp
  exact ⟨firstResponse p, fun c => hrun [c] _ reset_tablesBuilt rfl, hrun⟩

/-! #### A wrong kind, and the two shapes of a response -/

/-- Settles O38: the error response has no output, so only the payload's length can exceed `MAX_LEN`. -/
theorem wrongKindRaisesTypeError : Obligations.WrongKindRaisesTypeError := by
  refine ⟨fun k => ⟨rfl, rfl, rfl, rfl, rfl⟩, fun i s hfits hkind => ?_⟩
  rw [exec_eq_respond, responseOf_wrongKind hkind]
  exact raiseError_of_fits hfits

/-- Settles O44: a step with a command leaves the response of its word, which is shaped. -/
theorem responseHasOneOfTwoShapes : Obligations.ResponseHasOneOfTwoShapes := by
  intro s t c rest hhost hstep
  have hshaped : t.response.Shaped := by
    rw [step_issue_response hhost hstep]
    exact commandResponse_shaped _ _
  obtain ⟨hlen, hcases⟩ := hshaped
  by_cases hok : t.status = .ok
  · exact .inl ⟨hok, hlen⟩
  · exact .inr ⟨hok, hcases.resolve_left hok⟩

/-! #### The opcode map -/

theorem selects_iff {r : OpcodeRow} (hr : r ∈ opcodeMap) (w : Byte) :
    r.selects w = true ↔ w &&& 0xF7#8 = r.pattern := by
  have hmask : ∀ r ∈ opcodeMap, r.mask = 0xF7#8 := by decide
  rw [OpcodeRow.selects, hmask r hr, beq_iff_eq]

/-- The rows look at every bit of a word but the tag `K`, bit 3. -/
theorem eq_of_selects_of_bit3 {r : OpcodeRow} (hr : r ∈ opcodeMap) {w v : Byte} (hw : r.selects w = true)
    (hv : r.selects v = true) (hbit : w.getLsbD 3 = v.getLsbD 3) : w = v := by
  rw [selects_iff hr] at hw hv
  have hmask : ∀ i : Fin 8, (0xF7#8).getLsbD i = decide (i ≠ 3) := by decide
  ext i hi
  have hmasked : (w &&& 0xF7#8).getLsbD i = (v &&& 0xF7#8).getLsbD i := by rw [hw, hv]
  have hbitmask : (0xF7#8).getLsbD i = decide (⟨i, hi⟩ ≠ (3 : Fin 8)) := hmask ⟨i, hi⟩
  grind

/-- An instruction's word selects the row that bears its name, and no other (30_encoding.md R50). -/
theorem selects_encode_iff (i : Instr) {r : OpcodeRow} (hr : r ∈ opcodeMap) :
    r.selects (encode i) = true ↔ r.mnemonic = i.mnemonic := by
  cases i with
  | hexenc k => exact (Laws.OwnRow.hexenc k).2 r hr
  | hexencu k => exact (Laws.OwnRow.hexencu k).2 r hr
  | hexdec k => exact (Laws.OwnRow.hexdec k).2 r hr
  | b64enc k => exact (Laws.OwnRow.b64enc k).2 r hr
  | b64dec k => exact (Laws.OwnRow.b64dec k).2 r hr

theorem exists_row_of_instr (i : Instr) : ∃ r ∈ opcodeMap, r.mnemonic = i.mnemonic := by
  cases i <;> simp [opcodeMap, Instr.mnemonic]

theorem exists_instr_of_row {r : OpcodeRow} (hr : r ∈ opcodeMap) (k : Kind) :
    ∃ i : Instr, r.mnemonic = i.mnemonic ∧ i.kind = k := by
  simp only [opcodeMap, List.mem_cons, List.not_mem_nil, or_false] at hr
  rcases hr with rfl | rfl | rfl | rfl | rfl
  exacts [⟨.hexenc k, rfl, rfl⟩, ⟨.hexencu k, rfl, rfl⟩, ⟨.hexdec k, rfl, rfl⟩, ⟨.b64enc k, rfl, rfl⟩,
    ⟨.b64dec k, rfl, rfl⟩]

/-- An instruction's word carries its `K` in bit 3. -/
theorem kind_eq_ofBit (i : Instr) : i.kind = Kind.ofBit ((encode i).getLsbD 3) := by
  have hfield := congrArg CmdFields.k (ofWord_toWord i.fields)
  cases i <;> exact hfield.symm

theorem ofBit_injective : Function.Injective Kind.ofBit := by
  unfold Function.Injective
  decide

/-- The decoder in the terms of the opcode map (30_encoding.md R50): the row of the instruction's name, and `K`. -/
theorem decode_eq_instr_iff_row {w : Byte} {i : Instr} : decode w = .instr i ↔
    (∃ r ∈ opcodeMap, r.mnemonic = i.mnemonic ∧ r.selects w = true) ∧ i.kind = Kind.ofBit (w.getLsbD 3) := by
  rw [decode_eq_instr_iff]
  constructor
  · rintro rfl
    obtain ⟨r, hr, hname⟩ := exists_row_of_instr i
    exact ⟨⟨r, hr, hname, (selects_encode_iff i hr).2 hname⟩, kind_eq_ofBit i⟩
  · rintro ⟨⟨r, hr, hname, hselects⟩, hkind⟩
    rw [kind_eq_ofBit] at hkind
    exact eq_of_selects_of_bit3 hr ((selects_encode_iff i hr).2 hname) hselects (ofBit_injective hkind)

theorem reserved_iff_ne_instr (d : Decoded) : (∃ why, d = .reserved why) ↔ ∀ i, d ≠ .instr i := by
  cases d <;> simp

/-- A word that selects a row decodes: to the instruction of the row's name with the word's `K`. -/
theorem decode_reserved_iff_no_row (w : Byte) :
    (∃ why, decode w = .reserved why) ↔ ∀ r ∈ opcodeMap, r.selects w = false := by
  rw [reserved_iff_ne_instr]
  constructor
  · intro hnone r hr
    rw [Bool.eq_false_iff]
    intro hselects
    obtain ⟨i, hname, hkind⟩ := exists_instr_of_row hr (Kind.ofBit (w.getLsbD 3))
    exact hnone i (decode_eq_instr_iff_row.2 ⟨⟨r, hr, hname, hselects⟩, hkind⟩)
  · intro hnone i hi
    obtain ⟨⟨r, hr, -, hselects⟩, -⟩ := decode_eq_instr_iff_row.1 hi
    exact absurd hselects (Bool.eq_false_iff.1 (hnone r hr))

/-- The rows have one mask and different patterns, so no word selects two of them. -/
theorem opcodeMap_rows_disjoint :
    opcodeMap.Pairwise fun r q => ∀ w : Byte, ¬ (r.selects w = true ∧ q.selects w = true) := by
  have hpatterns : opcodeMap.Pairwise fun r q => r.pattern ≠ q.pattern := by decide
  refine hpatterns.imp_of_mem fun hr hq hne w ⟨hrw, hqw⟩ => hne ?_
  rw [← (selects_iff hr w).1 hrw, (selects_iff hq w).1 hqw]

/-- Settles O2. -/
theorem decoderAgreesWithOpcodeMap : Obligations.DecoderAgreesWithOpcodeMap :=
  ⟨fun _ _ => decode_eq_instr_iff_row, decode_reserved_iff_no_row, opcodeMap_rows_disjoint⟩

/-- Settles O3: twelve fixed words, decoded. -/
theorem wordsOfTheOpcodeMapDecode : Obligations.WordsOfTheOpcodeMapDecode := by
  unfold Obligations.WordsOfTheOpcodeMapDecode
  decide

/-! #### Reserved words -/

/-- Fields select no instruction exactly when a check of 30_encoding.md R46 fails. -/
theorem decode_reserved_iff (f : CmdFields) : (∃ why, f.decode = .reserved why) ↔ f.wellFormed = false := by
  simp only [CmdFields.decode, CmdFields.wellFormed, CmdFields.zeroIsClear, CmdFields.uuidOnlyOnEncode]
  split_ifs <;> simp_all

/-- The words that fail a check of 30_encoding.md R46. -/
theorem wellFormed_ofWord_false_iff : ∀ w : Byte, (CmdFields.ofWord w).wellFormed = false ↔
    (w.toNat / 16 ≠ 0 ∨ w ∈ [0x05#8, 0x06#8, 0x07#8, 0x0D#8, 0x0E#8, 0x0F#8]) := by decide +kernel

theorem reserved_words_count : ((List.range 256).filter fun n => (decodeTableWord 8 n).isNone).length = 246 := by
  decide +kernel

theorem step_issue_reserved {s : State} {c : Command} {rest : List HostEvent} {why : Reserved}
    (hhost : s.host = .issue c :: rest) (hdecode : decode c.word = .reserved why)
    (hfits : withinMaxLen s.params c.input.length = true) :
    step s = .next ((s.accept c rest).afterError .illegalCommand) := by
  rw [step_issue hhost, commandResponse_of_reserved hdecode]
  exact raiseError_of_fits hfits

/-- Settles O4: the reserved words are those that fail a check on the fields, and the step with one ends in the error. -/
theorem reservedWordsRaiseIllegalCommand : Obligations.ReservedWordsRaiseIllegalCommand :=
  ⟨fun w => (decode_reserved_iff _).trans (wellFormed_ofWord_false_iff w), reserved_words_count,
    fun _ _ _ _ => step_issue_reserved⟩

end Sys2Proof.Machine

/-! ### The family of 40_hexcodec.md: the digits, the three loops, and the round trips -/

namespace Sys2Proof.Machine

/-! #### The digits -/

/-- The three classes of `isHex` (40_hexcodec.md R61). -/
theorem isHex_iff (c : Byte) : isHex c = true ↔ (0x30 ≤ c.toNat ∧ c.toNat ≤ 0x39) ∨
    (0x61 ≤ c.toNat ∧ c.toNat ≤ 0x66) ∨ (0x41 ≤ c.toNat ∧ c.toNat ≤ 0x46) := by
  simp only [isHex, Bool.or_eq_true, isDigit_iff, Bool.and_eq_true, decide_eq_true_eq, BitVec.le_def,
    BitVec.toNat_ofNat]
  tauto

theorem isLowerHex_iff (c : Byte) : isLowerHex c = true ↔ (0x30 ≤ c.toNat ∧ c.toNat ≤ 0x39) ∨
    (0x61 ≤ c.toNat ∧ c.toNat ≤ 0x66) := by
  simp [isLowerHex]

theorem hexval_of_digit {c : Byte} (h1 : 0x30 ≤ c.toNat) (h2 : c.toNat ≤ 0x39) : hexval c = c.toNat - 0x30 :=
  if_pos ((isDigit_iff c).2 ⟨h1, h2⟩)

theorem hexval_of_lower {c : Byte} (h1 : 0x61 ≤ c.toNat) : hexval c = c.toNat - 0x61 + 10 := by
  have hdigit : ¬ isDigit c = true := by rw [isDigit_iff]; omega
  have hlower : 0x61#8 ≤ c := h1
  rw [hexval, if_neg hdigit, if_pos (decide_eq_true hlower)]

theorem hexval_of_upper {c : Byte} (h1 : 0x41 ≤ c.toNat) (h2 : c.toNat ≤ 0x46) : hexval c = c.toNat - 0x41 + 10 := by
  have hdigit : ¬ isDigit c = true := by rw [isDigit_iff]; omega
  have hlower : ¬ 0x61#8 ≤ c := Nat.not_le.2 (Nat.lt_of_le_of_lt h2 (by decide))
  rw [hexval, if_neg hdigit, if_neg (by simpa using hlower)]

theorem hexval_lt {c : Byte} (h : isHex c = true) : hexval c < 16 := by
  rcases (isHex_iff c).1 h with ⟨h1, h2⟩ | ⟨h1, h2⟩ | ⟨h1, h2⟩
  · rw [hexval_of_digit h1 h2]; omega
  · rw [hexval_of_lower h1]; omega
  · rw [hexval_of_upper h1 h2]; omega

theorem hexval_hexchar : ∀ d < 16, hexval (hexchar d) = d := by decide

theorem isLowerHex_hexchar : ∀ d < 16, isLowerHex (hexchar d) = true := by decide

theorem isHex_of_isLowerHex {c : Byte} (h : isLowerHex c = true) : isHex c = true :=
  (isHex_iff c).2 (((isLowerHex_iff c).1 h).imp_right .inl)

/-- The dash is no lowercase digit. -/
theorem ne_dash_of_isLowerHex {c : Byte} (h : isLowerHex c = true) : c ≠ dash := by
  rintro rfl
  exact absurd h (by decide)

theorem lowerHex_of_upper {c : Byte} (h1 : 0x41 ≤ c.toNat) (h2 : c.toNat ≤ 0x46) :
    lowerHex c = BitVec.ofNat 8 (c.toNat + 0x20) :=
  if_pos (by simp [h1, h2])

theorem lowerHex_of_not_upper {c : Byte} (h : ¬ (0x41 ≤ c.toNat ∧ c.toNat ≤ 0x46)) : lowerHex c = c :=
  if_neg (by simpa using h)

/-- Writing the value of a digit again puts it in lower case (40_hexcodec.md R67). -/
theorem hexchar_hexval {c : Byte} (h : isHex c = true) : hexchar (hexval c) = lowerHex c := by
  rcases (isHex_iff c).1 h with ⟨h1, h2⟩ | ⟨h1, h2⟩ | ⟨h1, h2⟩
  · have hcode : 0x30 + (c.toNat - 0x30) = c.toNat := by omega
    rw [hexval_of_digit h1 h2, hexchar_of_le_nine (by omega), hcode, lowerHex_of_not_upper (by omega),
      BitVec.ofNat_toNat, BitVec.setWidth_eq]
  · have hcode : 0x61 + (c.toNat - 0x61 + 10 - 10) = c.toNat := by omega
    rw [hexval_of_lower h1, hexchar_of_ten_le (by omega), hcode, lowerHex_of_not_upper (by omega),
      BitVec.ofNat_toNat, BitVec.setWidth_eq]
  · have hcode : 0x61 + (c.toNat - 0x41 + 10 - 10) = c.toNat + 0x20 := by omega
    rw [hexval_of_upper h1 h2, hexchar_of_ten_le (by omega), hcode, lowerHex_of_upper h1 h2]

/-- Settles O16: the three classes of digits, and the 16 nibbles. -/
theorem hexvalOfEitherCase : Obligations.HexvalOfEitherCase := by
  refine ⟨fun c => ⟨fun h1 h2 => ⟨?_, hexval_of_digit h1 h2⟩, fun h1 h2 => ⟨?_, hexval_of_lower h1⟩,
    fun h1 h2 => ⟨?_, hexval_of_upper h1 h2⟩⟩, fun d hd => ?_⟩
  · exact (isHex_iff c).2 (.inl ⟨h1, h2⟩)
  · exact (isHex_iff c).2 (.inr (.inl ⟨h1, h2⟩))
  · exact (isHex_iff c).2 (.inr (.inr ⟨h1, h2⟩))
  · exact ⟨isHex_of_isLowerHex (isLowerHex_hexchar d (by omega)), hexval_hexchar d (by omega)⟩

/-! #### The two digits of a byte -/

theorem nibbles_lt (b : Byte) : b.toNat / 16 < 16 ∧ b.toNat % 16 < 16 := by
  have hb := b.isLt
  omega

/-- The byte of two digits, as a number (40_hexcodec.md R66: it is in 0..255). -/
theorem hexByte_toNat {hi lo : Byte} (hhi : isHex hi = true) (hlo : isHex lo = true) :
    (BitVec.ofNat 8 (hexval hi * 16 + hexval lo)).toNat = hexval hi * 16 + hexval lo := by
  have h1 := hexval_lt hhi
  have h2 := hexval_lt hlo
  exact Nat.mod_eq_of_lt (by omega)

/-- `HEXLUT` holds what 10_state.md R11 says: of the tables, all that the encodes read. -/
abbrev HexlutBuilt (lut : Vector (Byte × Byte) 256) : Prop :=
  ∀ b : Byte, readByByte lut b = (hexchar (b.toNat / 16), hexchar (b.toNat % 16))

section
variable {lut : Vector (Byte × Byte) 256} (hlut : HexlutBuilt lut)
include hlut

theorem hexPair_eq (b : Byte) : hexPair lut b = [hexchar (b.toNat / 16), hexchar (b.toNat % 16)] := by
  rw [hexPair, hlut b]

theorem isLowerHex_of_mem_hexPair {b c : Byte} (h : c ∈ hexPair lut b) : isLowerHex c = true := by
  rw [hexPair_eq hlut, List.mem_pair] at h
  rcases h with rfl | rfl
  · exact isLowerHex_hexchar _ (nibbles_lt b).1
  · exact isLowerHex_hexchar _ (nibbles_lt b).2

theorem isLowerHex_of_mem_hexPlain {input : List Byte} {c : Byte} (h : c ∈ hexPlain lut input) :
    isLowerHex c = true := by
  obtain ⟨b, -, hb⟩ := List.mem_flatMap.1 h
  exact isLowerHex_of_mem_hexPair hlut hb

/-- The digits of byte `i` stand at `2i` and `2i + 1` (40_hexcodec.md R63). -/
theorem hexPlain_getElem? {input : List Byte} {i : Nat} (hi : i < input.length) :
    (hexPlain lut input)[2 * i]? = some (hexchar ((input.getD i 0).toNat / 16)) ∧
      (hexPlain lut input)[2 * i + 1]? = some (hexchar ((input.getD i 0).toNat % 16)) := by
  induction input generalizing i with
  | nil => exact absurd hi (Nat.not_lt_zero i)
  | cons b rest ih =>
    rw [hexPlain_cons, hexPair_eq hlut]
    cases i with
    | zero => exact ⟨rfl, rfl⟩
    | succ i => exact ih (Nat.lt_of_succ_lt_succ hi)

/-- Decoding the two digits of a byte gives it back (40_hexcodec.md R68). -/
theorem hexBytes_hexPair_append (b : Byte) (rest : List Byte) :
    hexBytes (hexPair lut b ++ rest) = b :: hexBytes rest := by
  obtain ⟨hhi, hlo⟩ := nibbles_lt b
  have hsum : b.toNat / 16 * 16 + b.toNat % 16 = b.toNat := Nat.div_add_mod' _ _
  rw [hexPair_eq hlut]
  simp [hexval_hexchar _ hhi, hexval_hexchar _ hlo, hsum]

theorem hexBytes_hexPlain (input : List Byte) : hexBytes (hexPlain lut input) = input := by
  induction input with
  | nil => rfl
  | cons b rest ih => rw [hexPlain_cons, hexBytes_hexPair_append hlut, ih]

/-- Encoding the byte of two digits gives them in lower case (40_hexcodec.md R67). -/
theorem hexPair_hexByte {hi lo : Byte} (hhi : isHex hi = true) (hlo : isHex lo = true) :
    hexPair lut (BitVec.ofNat 8 (hexval hi * 16 + hexval lo)) = [lowerHex hi, lowerHex lo] := by
  have hlt := hexval_lt hlo
  have hdiv : (hexval hi * 16 + hexval lo) / 16 = hexval hi := by omega
  have hmod : (hexval hi * 16 + hexval lo) % 16 = hexval lo := by omega
  rw [hexPair_eq hlut, hexByte_toNat hhi hlo, hdiv, hmod, hexchar_hexval hhi, hexchar_hexval hlo]

theorem hexPlain_hexBytes : ∀ digits : List Byte, digits.length % 2 = 0 → (∀ c ∈ digits, isHex c = true) →
    hexPlain lut (hexBytes digits) = digits.map lowerHex
  | [], _, _ => rfl
  | [_], hodd, _ => by simp at hodd
  | hi :: lo :: rest, heven, hhex => by
    simp only [List.forall_mem_cons] at hhex
    obtain ⟨hhi, hlo, hrest⟩ := hhex
    rw [hexBytes_cons, hexPlain_cons, hexPair_hexByte hlut hhi hlo, hexPlain_hexBytes rest ?_ hrest]
    · rfl
    · rwa [List.length_cons, List.length_cons, Nat.add_assoc, Nat.add_mod_right] at heven

end

/-- Byte `j` is the value of the digits at `2j` (high) and `2j + 1` (low) (40_hexcodec.md R66, R70). -/
theorem hexBytes_getElem?_toNat : ∀ (digits : List Byte) (j : Nat), (∀ c ∈ digits, isHex c = true) →
    j < digits.length / 2 → ((hexBytes digits)[j]?).map BitVec.toNat =
      some (hexval (digits.getD (2 * j) 0) * 16 + hexval (digits.getD (2 * j + 1) 0))
  | [], _, _, hj => absurd hj (Nat.not_lt_zero _)
  | [_], _, _, hj => absurd hj (by simp)
  | hi :: lo :: rest, j, hhex, hj => by
    simp only [List.forall_mem_cons] at hhex
    obtain ⟨hhi, hlo, hrest⟩ := hhex
    rw [hexBytes_cons]
    cases j with
    | zero => exact congrArg some (hexByte_toNat hhi hlo)
    | succ j =>
      have hlt : j < rest.length / 2 := by simp only [List.length_cons] at hj; omega
      exact hexBytes_getElem?_toNat rest j hrest hlt

/-! #### Dashes -/

/-- The statements' spelling of 40_hexcodec.md R62 is the model's. -/
theorem undashed_eq_strip (s : List Byte) : undashed s = strip s :=
  List.filter_congr fun c _ => by simp [isDash, dash, Bool.beq_eq_decide_eq]

/-- Nothing is stripped from lowercase digits. -/
theorem strip_of_isLowerHex {s : List Byte} (h : ∀ c ∈ s, isLowerHex c = true) : strip s = s :=
  List.filter_eq_self.2 fun c hc => by simpa [isDash] using ne_dash_of_isLowerHex (h c hc)

theorem strip_dashBefore (i : Nat) : strip (if dashBefore i then [dash] else []) = [] := by
  split <;> rfl

/-- One dash more stands before byte `i` than before byte `i - 1` where `HEXENCU` emits one (40_hexcodec.md R65). -/
theorem uuidDashes_eq_pred_add (i : Nat) : uuidDashes i = uuidDashes (i - 1) + if dashBefore i then 1 else 0 := by
  simp only [uuidDashes, dashBefore, Bool.or_eq_true, beq_iff_eq]
  split_ifs <;> omega

/-- Each byte is two characters and each dash one. -/
theorem hexDashed_length_add (lut : Vector (Byte × Byte) 256) (i : Nat) (input : List Byte) :
    (hexDashed lut i input).length + uuidDashes (i - 1) = 2 * input.length + uuidDashes (i + input.length - 1) := by
  induction input generalizing i with
  | nil => simp
  | cons b rest ih =>
    have hrest := ih (i + 1)
    have hdashes := uuidDashes_eq_pred_add i
    have hdash : (if dashBefore i then [dash] else []).length = if dashBefore i then 1 else 0 := by split <;> rfl
    have hlast : i + 1 + rest.length - 1 = i + (rest.length + 1) - 1 := by omega
    rw [hlast, Nat.add_sub_cancel] at hrest
    simp only [hexDashed_cons, List.length_append, List.length_cons, hdash, hexPair_length]
    omega

/-- The length of the UUID form (40_hexcodec.md R64). -/
theorem hexDashed_length (lut : Vector (Byte × Byte) 256) {input : List Byte} (h : input.length = 16) :
    (hexDashed lut 0 input).length = 36 := by
  have hlen := hexDashed_length_add lut 0 input
  rw [h] at hlen
  exact hlen

/-- The output of `HEXENCU` from byte `i` on is what the loop emits from there: two characters a byte and `d(i - 1)` dashes
stand before it. -/
theorem hexDashed_drop (lut : Vector (Byte × Byte) 256) (input : List Byte) {i : Nat} (hi : i ≤ input.length) :
    (hexDashed lut 0 input).drop (2 * i + uuidDashes (i - 1)) = hexDashed lut i (input.drop i) := by
  induction i with
  | zero => rfl
  | succ i ih =>
    have hpos : 2 * (i + 1) + uuidDashes (i + 1 - 1) =
        2 * i + uuidDashes (i - 1) + ((if dashBefore i then 1 else 0) + 2) := by
      rw [Nat.add_sub_cancel, uuidDashes_eq_pred_add i]
      omega
    rw [hpos, ← List.drop_drop, ih (Nat.le_of_succ_le hi), List.drop_eq_getElem_cons hi, hexDashed_cons]
    split <;> rfl

section
variable {lut : Vector (Byte × Byte) 256} (hlut : HexlutBuilt lut)
include hlut

theorem strip_hexPlain (input : List Byte) : strip (hexPlain lut input) = hexPlain lut input :=
  strip_of_isLowerHex fun _ => isLowerHex_of_mem_hexPlain hlut

/-- Deleting the dashes of the UUID form gives the plain form (40_hexcodec.md R65). -/
theorem strip_hexDashed (i : Nat) (input : List Byte) : strip (hexDashed lut i input) = hexPlain lut input := by
  induction input generalizing i with
  | nil => rfl
  | cons b rest ih =>
    rw [hexDashed_cons, strip_append, strip_append, strip_dashBefore, List.nil_append,
      strip_of_isLowerHex fun _ => isLowerHex_of_mem_hexPair hlut, ih, hexPlain_cons]

/-- What stands at and after the dash or the digits of byte `i`. -/
theorem hexDashed_getElem?_add {input : List Byte} {i : Nat} (hi : i < input.length) (n : Nat) :
    (hexDashed lut 0 input)[2 * i + uuidDashes (i - 1) + n]? =
      ((if dashBefore i then [dash] else []) ++ [hexchar ((input.getD i 0).toNat / 16),
        hexchar ((input.getD i 0).toNat % 16)] ++ hexDashed lut (i + 1) (input.drop (i + 1)))[n]? := by
  rw [← List.getElem?_drop, hexDashed_drop lut input (Nat.le_of_lt hi), List.drop_eq_getElem_cons hi, hexDashed_cons,
    hexPair_eq hlut, List.getD_eq_getElem _ _ hi]

/-- The digits of byte `i` stand at `2i + d(i)` and `2i + d(i) + 1` (40_hexcodec.md R65). -/
theorem hexDashed_getElem?_digits {input : List Byte} {i : Nat} (hi : i < input.length) :
    (hexDashed lut 0 input)[2 * i + uuidDashes i]? = some (hexchar ((input.getD i 0).toNat / 16)) ∧
      (hexDashed lut 0 input)[2 * i + uuidDashes i + 1]? = some (hexchar ((input.getD i 0).toNat % 16)) := by
  rw [uuidDashes_eq_pred_add i, ← Nat.add_assoc, Nat.add_assoc _ _ 1, hexDashed_getElem?_add hlut hi,
    hexDashed_getElem?_add hlut hi]
  split <;> exact ⟨rfl, rfl⟩

/-- A dash stands just before the digits of each byte that has one before it (40_hexcodec.md R64). -/
theorem hexDashed_getElem?_dash {input : List Byte} {i : Nat} (hi : i < input.length) (hdash : dashBefore i = true) :
    (hexDashed lut 0 input)[2 * i + uuidDashes (i - 1)]? = some dash := by
  have h := hexDashed_getElem?_add hlut hi 0
  rw [if_pos hdash] at h
  exact h

/-- The digits of byte `i` are the lowercase ones. -/
theorem hexDashed_isLowerHex {input : List Byte} {i : Nat} (hi : i < input.length) :
    ((hexDashed lut 0 input)[2 * i + uuidDashes i]?).map isLowerHex = some true ∧
      ((hexDashed lut 0 input)[2 * i + uuidDashes i + 1]?).map isLowerHex = some true := by
  obtain ⟨hhi, hlo⟩ := hexDashed_getElem?_digits hlut hi
  obtain ⟨hhilt, hlolt⟩ := nibbles_lt (input.getD i 0)
  rw [hhi, hlo, Option.map_some, Option.map_some, isLowerHex_hexchar _ hhilt, isLowerHex_hexchar _ hlolt]
  exact ⟨rfl, rfl⟩

end

/-- Where the dashes of the UUID form stand (40_hexcodec.md R65). -/
abbrev IsDashPosition (j : Nat) : Prop := j = 8 ∨ j = 13 ∨ j = 18 ∨ j = 23

/-- Every position below 36 but those of the dashes is that of a digit of one of the 16 bytes. -/
theorem digit_of_not_dashPosition : ∀ j < 36, ¬ IsDashPosition j →
    ∃ i < 16, j = 2 * i + uuidDashes i ∨ j = 2 * i + uuidDashes i + 1 := by decide

/-- The table of 40_hexcodec.md R65: a dash at each of the four positions, a lowercase digit elsewhere. -/
theorem hexDashed_layout {lut : Vector (Byte × Byte) 256} (hlut : HexlutBuilt lut) {input : List Byte}
    (hlen : input.length = 16) {j : Nat} (hj : j < 36) :
    if IsDashPosition j then (hexDashed lut 0 input)[j]? = some dash
    else ((hexDashed lut 0 input)[j]?).map isLowerHex = some true := by
  split
  next hpos =>
    have hdash : ∀ i < 16, dashBefore i = true → (hexDashed lut 0 input)[2 * i + uuidDashes (i - 1)]? = some dash :=
      fun i hi => hexDashed_getElem?_dash hlut (hlen ▸ hi)
    rcases hpos with rfl | rfl | rfl | rfl
    · exact hdash 4 (by decide) rfl
    · exact hdash 6 (by decide) rfl
    · exact hdash 8 (by decide) rfl
    · exact hdash 10 (by decide) rfl
  next hpos =>
    obtain ⟨i, hi, rfl | rfl⟩ := digit_of_not_dashPosition j hj hpos
    · exact (hexDashed_isLowerHex hlut (hlen ▸ hi)).1
    · exact (hexDashed_isLowerHex hlut (hlen ▸ hi)).2

theorem hexDashed_getElem?_eq_dash_iff {lut : Vector (Byte × Byte) 256} (hlut : HexlutBuilt lut) {input : List Byte}
    (hlen : input.length = 16) {j : Nat} (hj : j < 36) :
    (hexDashed lut 0 input)[j]? = some dash ↔ IsDashPosition j := by
  have hlayout := hexDashed_layout hlut hlen hj
  split at hlayout
  next hpos => exact iff_of_true hlayout hpos
  next hpos =>
    refine iff_of_false (fun hdash => ?_) hpos
    rw [hdash] at hlayout
    exact absurd hlayout (by decide)

/-! #### How an instruction ends -/

section
variable {i : Instr} {s : State} (hin : s.inputFits)
include hin

theorem exec_eq_afterOk {k : Kind} {out : List Byte} (hr : responseOf i s = done k out)
    (hout : s.outputFits out.length) : exec i s = .next (s.afterOk k out) := by
  rw [exec_eq_respond, hr]
  exact respond_of_fits hin hout

theorem exec_eq_afterError {e : ErrorKind} (hr : responseOf i s = raise e) : exec i s = .next (s.afterError e) := by
  rw [exec_eq_respond, hr]
  exact raiseError_of_fits hin

theorem exec_eq_typeError (hkind : i.kind ≠ expectedKind i) : exec i s = .next (s.afterError .typeError) :=
  exec_eq_afterError hin (responseOf_wrongKind hkind)

end

/-- The response an instruction leaves when it answers. -/
theorem response_of_exec {i : Instr} {s t : State} (h : exec i s = .next t) : t.response = responseOf i s := by
  rw [(exec_next_iff.1 h).2, withResponse_response]

/-- An instruction whose only success is under a check has passed it when it succeeds. -/
theorem check_of_success {t : State} {check : Prop} {k : Kind} {out : List Byte}
    (hpass : check → t.response = done k out) (hfail : ¬ check → ∃ e, t.response = raise e) (hok : t.status = .ok) :
    check ∧ t.obuf = out := by
  by_cases hcheck : check
  · exact ⟨hcheck, congrArg Response.obuf (hpass hcheck)⟩
  · obtain ⟨e, he⟩ := hfail hcheck
    exact absurd (hok.symm.trans (congrArg Response.status he)) nofun

/-- A `HEXENC` that succeeds had 16 bytes and has left their digits. -/
theorem hexenc_success {s t : State} (h : exec (.hexenc .bytes) s = .next t) (hok : t.status = .ok) :
    s.ibuf.length = 16 ∧ t.obuf = hexPlain s.hexlut s.ibuf := by
  have hresponse : t.response = hexencResponse s.hexlut .bytes s.ibuf := response_of_exec h
  exact check_of_success (fun hlen => hresponse.trans (hexencResponse_ok hlen))
    (fun hlen => ⟨_, hresponse.trans (hexencResponse_badLength hlen)⟩) hok

/-- A `HEXENCU` that succeeds had 16 bytes and has left their dashed digits. -/
theorem hexencu_success {s t : State} (h : exec (.hexencu .bytes) s = .next t) (hok : t.status = .ok) :
    s.ibuf.length = 16 ∧ t.obuf = hexDashed s.hexlut 0 s.ibuf := by
  have hresponse : t.response = hexencuResponse s.hexlut .bytes s.ibuf := response_of_exec h
  exact check_of_success (fun hlen => hresponse.trans (hexencuResponse_ok hlen))
    (fun hlen => ⟨_, hresponse.trans (hexencuResponse_badLength hlen)⟩) hok

/-- `HEXDEC` accepts an even number of hex digits, and raises an error on any other string. -/
theorem hexdecResponse_error {input : List Byte}
    (h : ¬ ((strip input).length % 2 = 0 ∧ ∀ c ∈ strip input, isHex c = true)) :
    ∃ e, hexdecResponse .string input = raise e := by
  rcases Nat.mod_two_eq_zero_or_one (strip input).length with heven | hodd
  · have hbad : ∃ c ∈ strip input, isHex c = false := by simpa [heven] using h
    exact ⟨_, hexdecResponse_badChar heven hbad⟩
  · exact ⟨_, hexdecResponse_oddLength hodd⟩

/-- A `HEXDEC` that succeeds had an even number of hex digits beside its dashes, and has left their bytes. -/
theorem hexdec_success {s t : State} (h : exec (.hexdec .string) s = .next t) (hok : t.status = .ok) :
    ((strip s.ibuf).length % 2 = 0 ∧ ∀ c ∈ strip s.ibuf, isHex c = true) ∧ t.obuf = hexBytes (strip s.ibuf) := by
  have hresponse : t.response = hexdecResponse .string s.ibuf := response_of_exec h
  exact check_of_success (fun ⟨heven, hhex⟩ => hresponse.trans (hexdecResponse_ok heven hhex))
    (fun hbad => hresponse ▸ hexdecResponse_error hbad) hok

/-! #### The statements -/

/-- Settles O17: under the length check stand the digits of each byte, two by two. -/
theorem hexencMeaning : Obligations.HexencMeaning := by
  refine ⟨by decide, by decide, fun s htables hin => ⟨exec_eq_typeError hin (by decide), fun hlen => ?_,
    fun hlen hout => ?_⟩⟩
  · exact exec_eq_afterError hin (hexencResponse_badLength hlen)
  · have hlut : HexlutBuilt s.hexlut := htables.1
    have hlength : (hexPlain s.hexlut s.ibuf).length = 32 := by rw [hexPlain_length, hlen]
    refine ⟨hexPlain s.hexlut s.ibuf, exec_eq_afterOk hin (hexencResponse_ok hlen) (by rwa [hlength]), hlength,
      fun i hi => ?_, fun c => isLowerHex_of_mem_hexPlain hlut⟩
    exact hexPlain_getElem? hlut (hlen ▸ hi)

/-- Settles O18: under the same check stand the digits of each byte, moved on by the dashes before them. -/
theorem hexencuMeaning : Obligations.HexencuMeaning := by
  refine ⟨by decide, by decide, fun s htables hin => ⟨exec_eq_typeError hin (by decide), fun hlen => ?_,
    fun hlen hout => ?_⟩⟩
  · exact exec_eq_afterError hin (hexencuResponse_badLength hlen)
  · have hlut : HexlutBuilt s.hexlut := htables.1
    have hlength := hexDashed_length s.hexlut hlen
    refine ⟨hexDashed s.hexlut 0 s.ibuf, exec_eq_afterOk hin (hexencuResponse_ok hlen) (by rwa [hlength]), hlength,
      fun i hi => ?_, fun j => hexDashed_getElem?_eq_dash_iff hlut hlen⟩
    exact hexDashed_getElem?_digits hlut (hlen ▸ hi)

/-- Settles O19: both forms make the same length check, and the loops differ in the dashes only. -/
theorem undashedUuidIsThePlainForm : Obligations.UndashedUuidIsThePlainForm := by
  intro s t u htables hplain hdashed
  have ht : t.response = hexencResponse s.hexlut .bytes s.ibuf := response_of_exec hplain
  have hu : u.response = hexencuResponse s.hexlut .bytes s.ibuf := response_of_exec hdashed
  change undashed u.response.obuf = t.response.obuf ∧ u.response.status = t.response.status
  by_cases hlen : s.ibuf.length = 16
  · rw [ht, hu, hexencResponse_ok hlen, hexencuResponse_ok hlen, undashed_eq_strip]
    exact ⟨strip_hexDashed htables.1 0 s.ibuf, rfl⟩
  · rw [ht, hu, hexencResponse_badLength hlen, hexencuResponse_badLength hlen]
    exact ⟨rfl, rfl⟩

/-- Settles O20: one outcome for each way through the checks, which read the stripped string. -/
theorem hexdecMeaning : Obligations.HexdecMeaning := by
  refine ⟨by decide, by decide, fun s hin => ⟨exec_eq_typeError hin (by decide), ?_⟩⟩
  rw [undashed_eq_strip]
  refine ⟨fun hodd => ?_, fun heven hbad => ?_, fun heven hhex hout => ?_⟩
  · exact exec_eq_afterError hin (hexdecResponse_oddLength hodd)
  · exact exec_eq_afterError hin (hexdecResponse_badChar heven hbad)
  · have hlength := hexBytes_length (strip s.ibuf)
    exact ⟨hexBytes (strip s.ibuf), exec_eq_afterOk hin (hexdecResponse_ok heven hhex) (by rwa [hlength]), hlength,
      fun j => hexBytes_getElem?_toNat _ j hhex⟩

/-- Settles O21: the bytes of a digit string encode to its digits in lower case. -/
theorem reencodingLowersCase : Obligations.ReencodingLowersCase := by
  intro s t s' hdec hok hlen htables hibuf hin hout
  obtain ⟨⟨heven, hhex⟩, hobuf⟩ := hexdec_success hdec hok
  have hlut : HexlutBuilt s'.hexlut := htables.1
  have hlen' : s'.ibuf.length = 16 := by rw [hibuf, hlen]
  have hdigits : hexPlain s'.hexlut s'.ibuf = (undashed s.ibuf).map lowerHex := by
    rw [hibuf, hobuf, hexPlain_hexBytes hlut _ heven hhex, undashed_eq_strip]
  have hlength : ((undashed s.ibuf).map lowerHex).length = 32 := by rw [← hdigits, hexPlain_length, hlen']
  exact exec_eq_afterOk hin ((hexencResponse_ok hlen').trans (by rw [hdigits])) (by rwa [hlength])

/-- `HEXDEC` of any string whose digits are the plain form of a buffer gives the buffer. -/
theorem exec_hexdec_of_strip_eq_hexPlain {lut : Vector (Byte × Byte) 256} (hlut : HexlutBuilt lut) {s : State}
    {input : List Byte} (hstrip : strip s.ibuf = hexPlain lut input) (hin : s.inputFits)
    (hout : s.outputFits input.length) : exec (.hexdec .string) s = .next (s.afterOk .bytes input) := by
  have heven : (strip s.ibuf).length % 2 = 0 := by rw [hstrip, hexPlain_length, Nat.mul_mod_right]
  have hhex : ∀ c ∈ strip s.ibuf, isHex c = true := by
    rw [hstrip]
    exact fun c hc => isHex_of_isLowerHex (isLowerHex_of_mem_hexPlain hlut hc)
  refine exec_eq_afterOk hin ((hexdecResponse_ok heven hhex).trans ?_) hout
  rw [hstrip, hexBytes_hexPlain hlut]

/-- Settles O22: the plain form is its own digits. -/
theorem hexPlainRoundTrip : Obligations.HexPlainRoundTrip := by
  intro s t s' htables henc hok hibuf hin hout
  obtain ⟨hlen, hobuf⟩ := hexenc_success henc hok
  have hstrip : strip s'.ibuf = hexPlain s.hexlut s.ibuf := by rw [hibuf, hobuf, strip_hexPlain htables.1]
  exact exec_hexdec_of_strip_eq_hexPlain htables.1 hstrip hin (by rwa [hlen])

/-- Settles O23: the digits of the UUID form are the plain form. -/
theorem hexUuidRoundTrip : Obligations.HexUuidRoundTrip := by
  intro s t s' htables henc hok hibuf hin hout
  obtain ⟨hlen, hobuf⟩ := hexencu_success henc hok
  have hstrip : strip s'.ibuf = hexPlain s.hexlut s.ibuf := by rw [hibuf, hobuf, strip_hexDashed htables.1]
  exact exec_hexdec_of_strip_eq_hexPlain htables.1 hstrip hin (by rwa [hlen])

/-- Settles O24: `HEXDEC` reads its payload through `strip` only. -/
theorem hexdecIgnoresDashes : Obligations.HexdecIgnoresDashes := by
  intro s s' t t' hdashes h h'
  rw [undashed_eq_strip, undashed_eq_strip] at hdashes
  rw [response_of_exec h, response_of_exec h']
  simp only [responseOf, hexdecResponse, hdashes]

/-- Settles O25: a success has passed the length check, and its output is that of the loop. -/
theorem hexWireFormat : Obligations.HexWireFormat := by
  refine ⟨fun s t htables h hok => ?_, fun s t htables h hok => ?_⟩
  · obtain ⟨hlen, hobuf⟩ := hexenc_success h hok
    rw [hobuf]
    exact ⟨by rw [hexPlain_length, hlen], fun c => isLowerHex_of_mem_hexPlain htables.1⟩
  · obtain ⟨hlen, hobuf⟩ := hexencu_success h hok
    rw [hobuf]
    exact ⟨hexDashed_length _ hlen, fun j => hexDashed_layout htables.1 hlen⟩

end Sys2Proof.Machine

/-! ### The family of 41_base64codec.md: the groups as numbers, the two loops, and the round trips -/

namespace Sys2Proof.Machine

/-! #### The bits of a group -/

theorem bytesOf_of_append (b1 b2 b3 : Byte) : bytesOf (b1 ++ b2 ++ b3) = (b1, b2, b3) := by
  simp only [bytesOf, Prod.mk.injEq]
  refine ⟨?_, ?_, ?_⟩ <;> ext i hi <;> grind

theorem sextetsOf_of_append (v0 v1 v2 v3 : Sextet) : sextetsOf (v0 ++ v1 ++ v2 ++ v3) = (v0, v1, v2, v3) := by
  simp only [sextetsOf, Prod.mk.injEq]
  refine ⟨?_, ?_, ?_, ?_⟩ <;> ext i hi <;> grind

theorem unpack4_pack3 (b1 b2 b3 : Byte) :
    unpack4 (pack3 b1 b2 b3).1 (pack3 b1 b2 b3).2.1 (pack3 b1 b2 b3).2.2.1 (pack3 b1 b2 b3).2.2.2 = (b1, b2, b3) := by
  rw [unpack4_eq_bytesOf, pack3_eq_sextetsOf, sextetsOf_append, bytesOf_of_append]

theorem pack3_unpack4 (v0 v1 v2 v3 : Sextet) :
    pack3 (unpack4 v0 v1 v2 v3).1 (unpack4 v0 v1 v2 v3).2.1 (unpack4 v0 v1 v2 v3).2.2 = (v0, v1, v2, v3) := by
  rw [pack3_eq_sextetsOf, unpack4_eq_bytesOf, bytesOf_append, sextetsOf_of_append]

/-- Settles O26: both cut the group's 24-bit number into slices, and the slices of either kind in order are the number. -/
theorem packAndUnpackAreInverse : Obligations.PackAndUnpackAreInverse := ⟨unpack4_pack3, pack3_unpack4⟩

theorem toNat_append_eq_add {m n : Nat} (x : BitVec m) (y : BitVec n) : (x ++ y).toNat = x.toNat * 2 ^ n + y.toNat := by
  rw [BitVec.toNat_append, ← Nat.shiftLeft_add_eq_or_of_lt y.isLt, Nat.shiftLeft_eq]

/-- The 24-bit number of a group of bytes, as the statements write it. -/
theorem groupOfBytes_eq_toNat (input : List Byte) (j : Nat) : groupOfBytes input j =
    (input.getD (3 * j) 0 ++ input.getD (3 * j + 1) 0 ++ input.getD (3 * j + 2) 0).toNat := by
  rw [toNat_append_eq_add, toNat_append_eq_add]
  rfl

theorem sextetsOf_toNat (x : BitVec 24) :
    (sextetsOf x).1.toNat = x.toNat / 262144 ∧ (sextetsOf x).2.1.toNat = x.toNat / 4096 % 64 ∧
      (sextetsOf x).2.2.1.toNat = x.toNat / 64 % 64 ∧ (sextetsOf x).2.2.2.toNat = x.toNat % 64 := by
  have htop : x.toNat / 262144 < 64 := Nat.div_lt_of_lt_mul x.isLt
  simpa [sextetsOf, Nat.shiftRight_eq_div_pow] using htop

theorem bytesOf_toNat (x : BitVec 24) :
    (bytesOf x).1.toNat = x.toNat / 65536 ∧ (bytesOf x).2.1.toNat = x.toNat / 256 % 256 ∧
      (bytesOf x).2.2.toNat = x.toNat % 256 := by
  have htop : x.toNat / 65536 < 256 := Nat.div_lt_of_lt_mul x.isLt
  simpa [bytesOf, Nat.shiftRight_eq_div_pow] using htop

/-! #### The groups of a loop's output -/

theorem getElem?_of_group {l group : List Byte} {k j n : Nat} (hgroup : (l.drop (k * j)).take k = group) (hn : n < k) :
    l[k * j + n]? = group[n]? := by
  rw [← hgroup, List.getElem?_take_of_lt hn, List.getElem?_drop]

/-- The four characters of group `j` (41_base64codec.md R82). -/
theorem b64EncodeGroups_group (alpha : Vector Byte 64) : ∀ (input : List Byte) (j : Nat), j < input.length / 3 →
    ((b64EncodeGroups alpha input).drop (4 * j)).take 4 =
      b64Chars alpha (input.getD (3 * j) 0) (input.getD (3 * j + 1) 0) (input.getD (3 * j + 2) 0)
  | [], _, hj => absurd hj (Nat.not_lt_zero _)
  | [_], _, hj => absurd hj (by simp)
  | [_, _], _, hj => absurd hj (by simp)
  | _ :: _ :: _ :: _, 0, _ => rfl
  | _ :: _ :: _ :: rest, j + 1, hj => by
    have hlt : j < rest.length / 3 := by simp only [List.length_cons] at hj; omega
    exact b64EncodeGroups_group alpha rest j hlt

/-- The three bytes of group `j` (41_base64codec.md R85). -/
theorem b64DecodeGroups_group (rev : Vector Sextet 256) : ∀ (input : List Byte) (j : Nat), j < input.length / 4 →
    ((b64DecodeGroups rev input).drop (3 * j)).take 3 =
      b64Bytes rev (input.getD (4 * j) 0) (input.getD (4 * j + 1) 0) (input.getD (4 * j + 2) 0)
        (input.getD (4 * j + 3) 0)
  | [], _, hj => absurd hj (Nat.not_lt_zero _)
  | [_], _, hj => absurd hj (by simp)
  | [_, _], _, hj => absurd hj (by simp)
  | [_, _, _], _, hj => absurd hj (by simp)
  | _ :: _ :: _ :: _ :: _, 0, _ => rfl
  | _ :: _ :: _ :: _ :: rest, j + 1, hj => by
    have hlt : j < rest.length / 4 := by simp only [List.length_cons] at hj; omega
    exact b64DecodeGroups_group rev rest j hlt

/-- The whole groups of three of a payload, without its tail. -/
theorem take_wholeGroups_cons (b1 b2 b3 : Byte) (rest : List Byte) :
    (b1 :: b2 :: b3 :: rest).take (3 * ((b1 :: b2 :: b3 :: rest).length / 3)) =
      b1 :: b2 :: b3 :: rest.take (3 * (rest.length / 3)) := by
  have hlen : (b1 :: b2 :: b3 :: rest).length / 3 = rest.length / 3 + 1 :=
    Nat.add_div_right rest.length (Nat.succ_pos 2)
  rw [hlen]
  rfl

theorem take_wholeGroups_of_noTail {input : List Byte} (h : input.length % 3 = 0) :
    input.take (3 * (input.length / 3)) = input := by
  rw [Nat.mul_div_cancel' (Nat.dvd_of_mod_eq_zero h), List.take_length]

/-- The loop of `B64ENC` reads the whole groups only (41_base64codec.md R83). -/
theorem b64EncodeGroups_take_wholeGroups (alpha : Vector Byte 64) : ∀ input : List Byte,
    b64EncodeGroups alpha (input.take (3 * (input.length / 3))) = b64EncodeGroups alpha input
  | [] => rfl
  | [_] => by simp [b64EncodeGroups]
  | [_, _] => by simp [b64EncodeGroups]
  | b1 :: b2 :: b3 :: rest => by
    rw [take_wholeGroups_cons, b64EncodeGroups_cons, b64EncodeGroups_cons, b64EncodeGroups_take_wholeGroups alpha rest]

/-! #### The characters and bytes of a group, with the tables built -/

section
variable {s : State} (hs : s.TablesBuilt)
include hs

theorem b64Chars_eq (b1 b2 b3 : Byte) : b64Chars s.b64alpha b1 b2 b3 =
    [b64char ((b1 ++ b2 ++ b3).toNat / 262144), b64char ((b1 ++ b2 ++ b3).toNat / 4096 % 64),
      b64char ((b1 ++ b2 ++ b3).toNat / 64 % 64), b64char ((b1 ++ b2 ++ b3).toNat % 64)] := by
  obtain ⟨-, halpha, -⟩ := hs
  obtain ⟨h0, h1, h2, h3⟩ := sextetsOf_toNat (b1 ++ b2 ++ b3)
  simp only [b64Chars, pack3_eq_sextetsOf, halpha, h0, h1, h2, h3]

theorem b64EncodeGroups_getElem? {input : List Byte} {j : Nat} (hj : j < input.length / 3) :
    (b64EncodeGroups s.b64alpha input)[4 * j]? = some (b64char (groupOfBytes input j / 262144)) ∧
      (b64EncodeGroups s.b64alpha input)[4 * j + 1]? = some (b64char (groupOfBytes input j / 4096 % 64)) ∧
      (b64EncodeGroups s.b64alpha input)[4 * j + 2]? = some (b64char (groupOfBytes input j / 64 % 64)) ∧
      (b64EncodeGroups s.b64alpha input)[4 * j + 3]? = some (b64char (groupOfBytes input j % 64)) := by
  have hgroup := b64EncodeGroups_group s.b64alpha input j hj
  rw [b64Chars_eq hs, ← groupOfBytes_eq_toNat] at hgroup
  exact ⟨getElem?_of_group hgroup (n := 0) (by decide), getElem?_of_group hgroup (by decide),
    getElem?_of_group hgroup (by decide), getElem?_of_group hgroup (by decide)⟩

/-- The 24-bit number of a group of alphabet characters, as the statements write it. -/
theorem groupOfChars_eq_toNat {input : List Byte} (hchars : ∀ c ∈ input, isB64 c = true) {j : Nat}
    (hj : j < input.length / 4) : groupOfChars input j =
      (readByByte s.b64rev (input.getD (4 * j) 0) ++ readByByte s.b64rev (input.getD (4 * j + 1) 0) ++
        readByByte s.b64rev (input.getD (4 * j + 2) 0) ++ readByByte s.b64rev (input.getD (4 * j + 3) 0)).toNat := by
  have hvalue : ∀ n < 4, (readByByte s.b64rev (input.getD (4 * j + n) 0)).toNat = b64value (input.getD (4 * j + n) 0) := by
    intro n hn
    have hlt : 4 * j + n < input.length := by omega
    rw [List.getD_eq_getElem _ _ hlt]
    exact TablesBuilt_rev_toNat hs (hchars _ (List.getElem_mem hlt))
  have h0 : (readByByte s.b64rev (input.getD (4 * j) 0)).toNat = b64value (input.getD (4 * j) 0) := hvalue 0 (by decide)
  rw [toNat_append_eq_add, toNat_append_eq_add, toNat_append_eq_add, h0, hvalue 1 (by decide), hvalue 2 (by decide),
    hvalue 3 (by decide)]
  rfl

theorem b64DecodeGroups_getElem? {input : List Byte} (hchars : ∀ c ∈ input, isB64 c = true) {j : Nat}
    (hj : j < input.length / 4) :
    ((b64DecodeGroups s.b64rev input)[3 * j]?).map BitVec.toNat = some (groupOfChars input j / 65536) ∧
      ((b64DecodeGroups s.b64rev input)[3 * j + 1]?).map BitVec.toNat = some (groupOfChars input j / 256 % 256) ∧
      ((b64DecodeGroups s.b64rev input)[3 * j + 2]?).map BitVec.toNat = some (groupOfChars input j % 256) := by
  have hgroup := b64DecodeGroups_group s.b64rev input j hj
  simp only [b64Bytes, unpack4_eq_bytesOf] at hgroup
  rw [groupOfChars_eq_toNat hs hchars hj]
  obtain ⟨h0, h1, h2⟩ := bytesOf_toNat (readByByte s.b64rev (input.getD (4 * j) 0) ++
    readByByte s.b64rev (input.getD (4 * j + 1) 0) ++ readByByte s.b64rev (input.getD (4 * j + 2) 0) ++
    readByByte s.b64rev (input.getD (4 * j + 3) 0))
  rw [← h0, ← h1, ← h2]
  exact ⟨congrArg _ (getElem?_of_group hgroup (n := 0) (by decide)), congrArg _ (getElem?_of_group hgroup (by decide)),
    congrArg _ (getElem?_of_group hgroup (by decide))⟩

/-- Every output character of `B64ENC` is one of the alphabet (41_base64codec.md R90). -/
theorem exists_sextet_of_mem_b64EncodeGroups {c : Byte} :
    ∀ input : List Byte, c ∈ b64EncodeGroups s.b64alpha input → ∃ v : Sextet, c = b64char v.toNat
  | [], h => absurd h List.not_mem_nil
  | [_], h => absurd h List.not_mem_nil
  | [_, _], h => absurd h List.not_mem_nil
  | b1 :: b2 :: b3 :: rest, h => by
    have halpha : ∀ v : Sextet, readBySextet s.b64alpha v = b64char v.toNat := hs.2.1
    rw [b64EncodeGroups_cons, List.mem_append] at h
    rcases h with hgroup | hrest
    · simp only [b64Chars, halpha, List.mem_cons, List.not_mem_nil, or_false] at hgroup
      rcases hgroup with rfl | rfl | rfl | rfl <;> exact ⟨_, rfl⟩
    · exact exists_sextet_of_mem_b64EncodeGroups rest hrest

theorem isB64_of_mem_b64EncodeGroups {input : List Byte} {c : Byte} (h : c ∈ b64EncodeGroups s.b64alpha input) :
    isB64 c = true := by
  obtain ⟨v, rfl⟩ := exists_sextet_of_mem_b64EncodeGroups hs input h
  exact isB64_b64char v

end

/-! #### The round trips of the loops -/

section
variable {s s' : State} (hs : s.TablesBuilt) (hs' : s'.TablesBuilt)
include hs hs'

theorem b64DecodeGroups_b64Chars_append (b1 b2 b3 : Byte) (rest : List Byte) :
    b64DecodeGroups s'.b64rev (b64Chars s.b64alpha b1 b2 b3 ++ rest) = b1 :: b2 :: b3 :: b64DecodeGroups s'.b64rev rest := by
  obtain ⟨-, halpha, -⟩ := hs
  obtain ⟨-, -, hrev⟩ := hs'
  simp [b64Chars, b64Bytes, halpha, hrev, unpack4_pack3]

/-- Decoding an encoded payload gives its whole groups (41_base64codec.md R88). -/
theorem b64DecodeGroups_b64EncodeGroups : ∀ input : List Byte,
    b64DecodeGroups s'.b64rev (b64EncodeGroups s.b64alpha input) = input.take (3 * (input.length / 3))
  | [] => rfl
  | [_] => by simp [b64EncodeGroups, b64DecodeGroups]
  | [_, _] => by simp [b64EncodeGroups, b64DecodeGroups]
  | b1 :: b2 :: b3 :: rest => by
    rw [take_wholeGroups_cons, b64EncodeGroups_cons, b64DecodeGroups_b64Chars_append hs hs',
      b64DecodeGroups_b64EncodeGroups rest]

/-- `B64ALPHA` gives back the alphabet character that `B64REV` gave the value of. -/
theorem readBySextet_readByByte {c : Byte} (hc : isB64 c = true) :
    readBySextet s'.b64alpha (readByByte s.b64rev c) = c := by
  obtain ⟨-, halpha, -⟩ := hs'
  rw [halpha, TablesBuilt_rev_toNat hs hc, b64char_b64value c hc]

theorem b64EncodeGroups_b64Bytes_append {c0 c1 c2 c3 : Byte} (h0 : isB64 c0 = true) (h1 : isB64 c1 = true)
    (h2 : isB64 c2 = true) (h3 : isB64 c3 = true) (rest : List Byte) :
    b64EncodeGroups s'.b64alpha (b64Bytes s.b64rev c0 c1 c2 c3 ++ rest) =
      c0 :: c1 :: c2 :: c3 :: b64EncodeGroups s'.b64alpha rest := by
  have hback : ∀ {c : Byte}, isB64 c = true → readBySextet s'.b64alpha (readByByte s.b64rev c) = c :=
    readBySextet_readByByte hs hs'
  simp [b64Chars, b64Bytes, pack3_unpack4, hback h0, hback h1, hback h2, hback h3]

/-- Encoding a decoded string gives it back (41_base64codec.md R89). -/
theorem b64EncodeGroups_b64DecodeGroups : ∀ input : List Byte, input.length % 4 = 0 → (∀ c ∈ input, isB64 c = true) →
    b64EncodeGroups s'.b64alpha (b64DecodeGroups s.b64rev input) = input
  | [], _, _ => rfl
  | [_], hlen, _ => absurd hlen (by simp)
  | [_, _], hlen, _ => absurd hlen (by simp)
  | [_, _, _], hlen, _ => absurd hlen (by simp)
  | c0 :: c1 :: c2 :: c3 :: rest, hlen, hchars => by
    simp only [List.forall_mem_cons] at hchars
    obtain ⟨h0, h1, h2, h3, hrest⟩ := hchars
    have hlen' : rest.length % 4 = 0 := by simp only [List.length_cons] at hlen; omega
    rw [b64DecodeGroups_cons, b64EncodeGroups_b64Bytes_append hs hs' h0 h1 h2 h3,
      b64EncodeGroups_b64DecodeGroups rest hlen' hrest]

end

/-! #### How the two instructions end -/

/-- The tail check of `B64ENC` passes on whole groups and under `DROP` (41_base64codec.md R83, R84). -/
abbrev TailAccepted (policy : TailPolicy) (input : List Byte) : Prop := input.length % 3 = 0 ∨ policy = .drop

/-- `B64ENC` raises an error on a tail that is not accepted. -/
theorem b64encResponse_error {alpha : Vector Byte 64} {policy : TailPolicy} {input : List Byte}
    (h : ¬ TailAccepted policy input) : b64encResponse alpha policy .bytes input = raise .lengthError := by
  obtain ⟨htail, hpolicy⟩ := not_or.1 h
  cases policy with
  | fault => exact b64encResponse_tail htail
  | drop => exact absurd rfl hpolicy

theorem exec_b64enc_ok {s : State} (hin : s.inputFits) (hout : s.outputFits (4 * (s.ibuf.length / 3)))
    (htail : TailAccepted s.params.tailPolicy s.ibuf) :
    exec (.b64enc .bytes) s = .next (s.afterOk .string (b64EncodeGroups s.b64alpha s.ibuf)) :=
  exec_eq_afterOk hin (b64encResponse_ok htail) (by rwa [b64EncodeGroups_length])

theorem exec_b64enc_tail {s : State} (hin : s.inputFits) (htail : s.ibuf.length % 3 ≠ 0)
    (hpolicy : s.params.tailPolicy = .fault) : exec (.b64enc .bytes) s = .next (s.afterError .lengthError) := by
  refine exec_eq_afterError hin (b64encResponse_error ?_)
  simp [htail, hpolicy]

theorem exec_b64dec_ok {s : State} (hin : s.inputFits) (hout : s.outputFits (3 * (s.ibuf.length / 4)))
    (hlen : s.ibuf.length % 4 = 0) (hchars : ∀ c ∈ s.ibuf, isB64 c = true) :
    exec (.b64dec .string) s = .next (s.afterOk .bytes (b64DecodeGroups s.b64rev s.ibuf)) :=
  exec_eq_afterOk hin (b64decResponse_ok hlen hchars) (by rwa [b64DecodeGroups_length])

/-- A `B64ENC` that succeeds has passed the tail check and has left the characters of the whole groups. -/
theorem b64enc_success {s t : State} (h : exec (.b64enc .bytes) s = .next t) (hok : t.status = .ok) :
    TailAccepted s.params.tailPolicy s.ibuf ∧ t.obuf = b64EncodeGroups s.b64alpha s.ibuf := by
  have hresponse : t.response = b64encResponse s.b64alpha s.params.tailPolicy .bytes s.ibuf := response_of_exec h
  exact check_of_success (fun htail => hresponse.trans (b64encResponse_ok htail))
    (fun htail => ⟨_, hresponse.trans (b64encResponse_error htail)⟩) hok

/-- A `B64DEC` that succeeds had whole groups of alphabet characters, and has left their bytes. -/
theorem b64dec_success {s t : State} (h : exec (.b64dec .string) s = .next t) (hok : t.status = .ok) :
    (s.ibuf.length % 4 = 0 ∧ ∀ c ∈ s.ibuf, isB64 c = true) ∧ t.obuf = b64DecodeGroups s.b64rev s.ibuf := by
  have hresponse : t.response = b64decResponse s.b64rev .string s.ibuf := response_of_exec h
  refine check_of_success (fun ⟨hlen, hchars⟩ => hresponse.trans (b64decResponse_ok hlen hchars)) (fun hbad => ?_) hok
  have hbad' : s.ibuf.length % 4 ≠ 0 ∨ ∃ c ∈ s.ibuf, isB64 c = false := by simpa [or_iff_not_imp_left] using hbad
  exact ⟨_, hresponse.trans (b64decResponse_bad hbad')⟩

theorem withinMaxLen_congr {p q : Params} (h : p.maxLen = q.maxLen) (n : Nat) : withinMaxLen p n = withinMaxLen q n := by
  simp only [withinMaxLen, h]

/-- Where an instruction answers, it answers with the same response from any other state of which it reads the same. -/
theorem exec_next_of_responseOf_eq {i : Instr} {s s' t : State} (hresponse : responseOf i s' = responseOf i s)
    (hibuf : s'.ibuf = s.ibuf) (hbound : s'.params.maxLen = s.params.maxLen) (h : exec i s = .next t) :
    exec i s' = .next (s'.withResponse (responseOf i s)) ∧ t = s.withResponse (responseOf i s) := by
  obtain ⟨⟨hin, hout⟩, ht⟩ := exec_next_iff.1 h
  refine ⟨exec_next_iff.2 ⟨⟨?_, ?_⟩, by rw [hresponse]⟩, ht⟩
  · rwa [State.inputFits, withinMaxLen_congr hbound, hibuf]
  · rwa [State.outputFits, withinMaxLen_congr hbound, hresponse]

/-! #### The statements -/

/-- Settles O28: one outcome for each way through the checks; group `j` of the output is the alphabet's spelling of group
`j` of the payload. -/
theorem b64encMeaning : Obligations.B64encMeaning := by
  refine ⟨by decide, by decide, fun s htables hin => ⟨exec_eq_typeError hin (by decide), exec_b64enc_tail hin,
    fun htail hout => ?_⟩⟩
  exact ⟨_, exec_b64enc_ok hin hout htail, b64EncodeGroups_length _ _, fun j => b64EncodeGroups_getElem? htables⟩

theorem withinMaxLen_mono {p : Params} {m n : Nat} (hmn : m ≤ n) (hn : withinMaxLen p n = true) :
    withinMaxLen p m = true := by
  cases hp : p.maxLen with
  | none => exact withinMaxLen_none hp m
  | some b => exact (withinMaxLen_some hp m).2 (hmn.trans ((withinMaxLen_some hp n).1 hn))

/-- Settles O29: the loop emits the same characters for the whole groups alone, which pass the check without the policy. -/
theorem dropIgnoresTheTail : Obligations.DropIgnoresTheTail := by
  intro s hdrop hin hout
  refine ⟨_, exec_b64enc_ok hin hout (.inr hdrop), b64EncodeGroups_length _ _, ?_⟩
  have hin' : ({ s with ibuf := s.ibuf.take (3 * (s.ibuf.length / 3)) } : State).inputFits :=
    withinMaxLen_mono (List.length_take_le' _ _) hin
  rw [← b64EncodeGroups_take_wholeGroups]
  refine exec_eq_afterOk hin' (b64encResponse_ok (.inr hdrop)) ?_
  rwa [b64EncodeGroups_take_wholeGroups, b64EncodeGroups_length]

/-- Settles O30: the policy is read only where there is a tail. -/
theorem faultRejectsTheTail : Obligations.FaultRejectsTheTail := by
  refine ⟨fun s hpolicy hin htail => exec_b64enc_tail hin htail hpolicy, fun s t p hlen h => ?_⟩
  have hsame : responseOf (.b64enc .bytes) { s with params := { s.params with tailPolicy := p } } =
      responseOf (.b64enc .bytes) s := (b64encResponse_ok (.inl hlen)).trans (b64encResponse_ok (.inl hlen)).symm
  obtain ⟨hexec, rfl⟩ := exec_next_of_responseOf_eq hsame rfl rfl h
  exact hexec

/-- Settles O31: one outcome for each way through the checks; group `j` of the output is the bytes of group `j` of the
string. -/
theorem b64decMeaning : Obligations.B64decMeaning := by
  refine ⟨by decide, by decide, fun s htables hin => ⟨exec_eq_typeError hin (by decide), fun hbad => ?_,
    fun hlen hchars hout => ?_⟩⟩
  · exact exec_eq_afterError hin (b64decResponse_bad hbad)
  · exact ⟨_, exec_b64dec_ok hin hout hlen hchars, b64DecodeGroups_length _ _,
      fun j => b64DecodeGroups_getElem? htables hchars⟩

/-- Settles O32: the response reads the alphabet's entries only. -/
theorem b64decNeverReadsOutsideTheAlphabet : Obligations.B64decNeverReadsOutsideTheAlphabet := by
  intro s t rev k hrev h
  have hsame : responseOf (.b64dec k) { s with b64rev := rev } = responseOf (.b64dec k) s :=
    b64decResponse_congr hrev k s.ibuf
  obtain ⟨hexec, rfl⟩ := exec_next_of_responseOf_eq hsame rfl rfl h
  exact hexec

/-- Settles O33: the output of `B64ENC` is whole groups of alphabet characters, and the loop of `B64DEC` gives back the
payload's whole groups. -/
theorem base64RoundTrip : Obligations.Base64RoundTrip := by
  intro s t s' htables henc hok htables' hibuf hin hout
  obtain ⟨-, hobuf⟩ := b64enc_success henc hok
  rw [hobuf] at hibuf
  have hlength : s'.ibuf.length = 4 * (s.ibuf.length / 3) := by rw [hibuf, b64EncodeGroups_length]
  have hgroups : s'.ibuf.length / 4 = s.ibuf.length / 3 := by omega
  have hchars : ∀ c ∈ s'.ibuf, isB64 c = true := by
    rw [hibuf]
    exact fun c => isB64_of_mem_b64EncodeGroups htables
  have hdec := exec_b64dec_ok hin (by rwa [hgroups]) (by omega) hchars
  rw [hibuf, b64DecodeGroups_b64EncodeGroups htables htables'] at hdec
  exact ⟨hdec, fun hlen => by rwa [take_wholeGroups_of_noTail hlen] at hdec⟩

/-- Settles O34: the output of `B64DEC` is whole groups, so neither policy rejects it, and the loop of `B64ENC` gives back
the string. -/
theorem base64ConverseRoundTrip : Obligations.Base64ConverseRoundTrip := by
  intro s t s' htables hdec hok htables' hibuf hin hout
  obtain ⟨⟨hlen, hchars⟩, hobuf⟩ := b64dec_success hdec hok
  rw [hobuf] at hibuf
  have hlength : s'.ibuf.length = 3 * (s.ibuf.length / 4) := by rw [hibuf, b64DecodeGroups_length]
  have hgroups : 4 * (s'.ibuf.length / 3) = s.ibuf.length := by omega
  have henc := exec_b64enc_ok hin (by rwa [hgroups]) (.inl (by omega))
  rwa [hibuf, b64EncodeGroups_b64DecodeGroups htables htables' _ hlen hchars] at henc

/-- The characters that 41_base64codec.md R90 excludes by name are outside the alphabet. -/
theorem ne_excluded_of_isB64 {c : Byte} (h : isB64 c = true) :
    c ≠ 0x3D ∧ c ≠ 0x2B ∧ c ≠ 0x2F ∧ c ≠ 0x20 ∧ c ≠ 0x0A := by
  refine ⟨?_, ?_, ?_, ?_, ?_⟩ <;> rintro rfl <;> exact absurd h (by decide)

/-- Settles O35: a success has left the loop's output. -/
theorem base64WireFormat : Obligations.Base64WireFormat := by
  intro s t htables henc hok
  obtain ⟨-, hobuf⟩ := b64enc_success henc hok
  rw [hobuf]
  exact ⟨b64EncodeGroups_length _ _, fun c => exists_sextet_of_mem_b64EncodeGroups htables _,
    fun c hc => ne_excluded_of_isB64 (isB64_of_mem_b64EncodeGroups htables hc)⟩

/-- Settles O36: the payloads are one group each, spelled by the two ends of the alphabet. -/
theorem base64FixedPoints : Obligations.Base64FixedPoints := by
  intro s htables hin hout
  have hgroup : ∀ b1 b2 b3 : Byte, s.ibuf = [b1, b2, b3] →
      exec (.b64enc .bytes) s = .next (s.afterOk .string (b64Chars s.b64alpha b1 b2 b3)) := by
    intro b1 b2 b3 hibuf
    have henc := exec_b64enc_ok hin (by simpa [hibuf] using hout) (.inl (by simp [hibuf]))
    rwa [hibuf] at henc
  refine ⟨fun hibuf => ?_, fun hibuf => ?_⟩
  · rw [hgroup _ _ _ hibuf, b64Chars_eq htables]
    rfl
  · rw [hgroup _ _ _ hibuf, b64Chars_eq htables]
    rfl

end Sys2Proof.Machine

/-! ### The family of 60_exceptions.md: how every command ends, and that every step does -/

namespace Sys2Proof.Machine

/-! #### The one way an instruction ends -/

/-- The payload violates the instruction's length contract, the cases of 60_exceptions.md R102. -/
abbrev LengthFault (i : Instr) (s : State) : Prop :=
  match i with
  | .hexenc _ => s.ibuf.length ≠ 16
  | .hexencu _ => s.ibuf.length ≠ 16
  | .hexdec _ => (undashed s.ibuf).length % 2 = 1
  | .b64enc _ => s.ibuf.length % 3 ≠ 0 ∧ s.params.tailPolicy = .fault
  | .b64dec _ => False

/-- The payload violates the instruction's format, the cases of 60_exceptions.md R103. -/
abbrev FormatFault (i : Instr) (s : State) : Prop :=
  match i with
  | .hexenc _ => False
  | .hexencu _ => False
  | .hexdec _ => (undashed s.ibuf).length % 2 = 0 ∧ ∃ c ∈ undashed s.ibuf, isHex c = false
  | .b64enc _ => False
  | .b64dec _ => s.ibuf.length % 4 ≠ 0 ∨ ∃ c ∈ s.ibuf, isB64 c = false

/-- The status instruction `i` ends in, from what its checks find in `s`: first the kind, then the payload's length,
then its format (60_exceptions.md R104). A `FormatFault` implies that the length check has passed. -/
inductive EndsIn (i : Instr) (s : State) : Status → Prop
  | wrongKind (hkind : i.kind ≠ expectedKind i) : EndsIn i s (.error .typeError)
  | badLength (hkind : i.kind = expectedKind i) (hlength : LengthFault i s) : EndsIn i s (.error .lengthError)
  | badFormat (hkind : i.kind = expectedKind i) (hformat : FormatFault i s) : EndsIn i s (.error .formatError)
  | passed (hkind : i.kind = expectedKind i) (hlength : ¬ LengthFault i s) (hformat : ¬ FormatFault i s) :
    EndsIn i s .ok

theorem responseOf_lengthFault : ∀ {i : Instr} {s : State}, i.kind = expectedKind i → LengthFault i s →
    responseOf i s = raise .lengthError
  | .hexenc .bytes, _, _, h => hexencResponse_badLength h
  | .hexencu .bytes, _, _, h => hexencuResponse_badLength h
  | .hexdec .string, s, _, h => hexdecResponse_oddLength (undashed_eq_strip s.ibuf ▸ h)
  | .b64enc .bytes, _, _, ⟨htail, hpolicy⟩ => b64encResponse_error (not_or.2 ⟨htail, by simp [hpolicy]⟩)

theorem responseOf_formatFault : ∀ {i : Instr} {s : State}, i.kind = expectedKind i → FormatFault i s →
    responseOf i s = raise .formatError
  | .hexdec .string, s, _, h => by
    rw [FormatFault, undashed_eq_strip] at h
    obtain ⟨heven, hbad⟩ := h
    exact hexdecResponse_badChar heven hbad
  | .b64dec .string, _, _, h => b64decResponse_bad h

/-- An instruction whose checks find no fault in the payload succeeds. -/
theorem responseOf_passed : ∀ {i : Instr} {s : State}, i.kind = expectedKind i → ¬ LengthFault i s → ¬ FormatFault i s →
    ∃ k out, responseOf i s = done k out
  | .hexenc .bytes, _, _, hlength, _ => ⟨_, _, hexencResponse_ok (not_not.1 hlength)⟩
  | .hexencu .bytes, _, _, hlength, _ => ⟨_, _, hexencuResponse_ok (not_not.1 hlength)⟩
  | .hexdec .string, s, _, hlength, hformat => by
    rw [LengthFault, undashed_eq_strip] at hlength
    rw [FormatFault, undashed_eq_strip] at hformat
    have heven : (strip s.ibuf).length % 2 = 0 := Nat.mod_two_ne_one.1 hlength
    exact ⟨_, _, hexdecResponse_ok heven (by simpa [heven] using hformat)⟩
  | .b64enc .bytes, s, _, hlength, _ => by
    have htail : TailAccepted s.params.tailPolicy s.ibuf := by
      cases hpolicy : s.params.tailPolicy with
      | fault => exact .inl (by simpa [hpolicy] using hlength)
      | drop => exact .inr rfl
    exact ⟨_, _, b64encResponse_ok htail⟩
  | .b64dec .string, _, _, _, hformat => by
    obtain ⟨hlen, hchars⟩ := not_or.1 hformat
    exact ⟨_, _, b64decResponse_ok (not_not.1 hlen) (by simpa using hchars)⟩

theorem EndsIn.status_eq {i : Instr} {s : State} {st : Status} (h : EndsIn i s st) : (responseOf i s).status = st := by
  cases h with
  | wrongKind hkind => rw [responseOf_wrongKind hkind]; rfl
  | badLength hkind hlength => rw [responseOf_lengthFault hkind hlength]; rfl
  | badFormat hkind hformat => rw [responseOf_formatFault hkind hformat]; rfl
  | passed hkind hlength hformat =>
    obtain ⟨k, out, hdone⟩ := responseOf_passed hkind hlength hformat
    rw [hdone]; rfl

/-- Some case applies, since the last one is what the others leave. -/
theorem exists_endsIn (i : Instr) (s : State) : ∃ st, EndsIn i s st := by
  by_cases hkind : i.kind = expectedKind i
  · by_cases hlength : LengthFault i s
    · exact ⟨_, .badLength hkind hlength⟩
    · by_cases hformat : FormatFault i s
      · exact ⟨_, .badFormat hkind hformat⟩
      · exact ⟨_, .passed hkind hlength hformat⟩
  · exact ⟨_, .wrongKind hkind⟩

/-- The status of a response, in terms of the checks. -/
theorem responseOf_status_iff {i : Instr} {s : State} {st : Status} : (responseOf i s).status = st ↔ EndsIn i s st := by
  refine ⟨?_, EndsIn.status_eq⟩
  rintro rfl
  obtain ⟨st, hends⟩ := exists_endsIn i s
  exact hends.status_eq.symm ▸ hends

/-- The status an instruction leaves when it answers. -/
theorem exec_status_iff {i : Instr} {s t : State} (h : exec i s = .next t) (st : Status) :
    t.status = st ↔ EndsIn i s st := by
  rw [← responseOf_status_iff, ← response_of_exec h]
  rfl

theorem endsIn_typeError_iff {i : Instr} {s : State} : EndsIn i s (.error .typeError) ↔ i.kind ≠ expectedKind i :=
  ⟨fun | .wrongKind hkind => hkind, .wrongKind⟩

theorem endsIn_lengthError_iff {i : Instr} {s : State} :
    EndsIn i s (.error .lengthError) ↔ i.kind = expectedKind i ∧ LengthFault i s :=
  ⟨fun | .badLength hkind hlength => ⟨hkind, hlength⟩, fun ⟨hkind, hlength⟩ => .badLength hkind hlength⟩

theorem endsIn_formatError_iff {i : Instr} {s : State} :
    EndsIn i s (.error .formatError) ↔ i.kind = expectedKind i ∧ FormatFault i s :=
  ⟨fun | .badFormat hkind hformat => ⟨hkind, hformat⟩, fun ⟨hkind, hformat⟩ => .badFormat hkind hformat⟩

theorem not_endsIn_illegalCommand (i : Instr) (s : State) : ¬ EndsIn i s (.error .illegalCommand) := nofun

/-! #### The error statuses, exactly -/

/-- Settles O39. -/
theorem typeErrorExactlyOnWrongKind : Obligations.TypeErrorExactlyOnWrongKind :=
  fun _ _ _ h => (exec_status_iff h _).trans endsIn_typeError_iff

/-- Settles O40. -/
theorem lengthErrorExactly : Obligations.LengthErrorExactly :=
  fun _ _ _ h => (exec_status_iff h _).trans endsIn_lengthError_iff

/-- Settles O41. -/
theorem formatErrorExactly : Obligations.FormatErrorExactly :=
  fun _ _ _ h => (exec_status_iff h _).trans endsIn_formatError_iff

/-- Settles O42: a reserved word is answered with the error, and an instruction has no case that ends in it. -/
theorem illegalCommandExactlyOnReservedWords : Obligations.IllegalCommandExactlyOnReservedWords := by
  intro s t c rest hhost hstep
  change t.response.status = _ ↔ _
  rw [step_issue_response hhost hstep]
  cases hdecode : decode c.word with
  | instr i =>
    rw [commandResponse_of_instr hdecode, responseOf_status_iff]
    exact ⟨fun hends => absurd hends (not_endsIn_illegalCommand i _), nofun⟩
  | reserved why =>
    rw [commandResponse_of_reserved hdecode]
    exact ⟨fun _ => ⟨why, rfl⟩, fun _ => rfl⟩

/-! #### The statuses of each instruction -/

/-- Every instruction can succeed and can be given the wrong kind, under either policy. -/
theorem allowedStatuses_eq_cons (policy : TailPolicy) (i : Instr) :
    ∃ faults, allowedStatuses policy i = .ok :: .error .typeError :: faults := by
  cases i with
  | b64enc k => cases policy <;> exact ⟨_, rfl⟩
  | _ => exact ⟨_, rfl⟩

theorem lengthError_mem_allowedStatuses : ∀ {i : Instr} {s : State}, LengthFault i s →
    .error .lengthError ∈ allowedStatuses s.params.tailPolicy i
  | .hexenc _, _, _ => by simp [allowedStatuses]
  | .hexencu _, _, _ => by simp [allowedStatuses]
  | .hexdec _, _, _ => by simp [allowedStatuses]
  | .b64enc _, _, ⟨_, hpolicy⟩ => by simp [allowedStatuses, hpolicy]

theorem formatError_mem_allowedStatuses : ∀ {i : Instr} {s : State}, FormatFault i s →
    .error .formatError ∈ allowedStatuses s.params.tailPolicy i
  | .hexdec _, _, _ => by simp [allowedStatuses]
  | .b64dec _, _, _ => by simp [allowedStatuses]

/-- An instruction has a case for none but its own statuses (60_exceptions.md R111). -/
theorem EndsIn.mem_allowedStatuses {i : Instr} {s : State} {st : Status} (h : EndsIn i s st) :
    st ∈ allowedStatuses s.params.tailPolicy i := by
  obtain ⟨faults, hcons⟩ := allowedStatuses_eq_cons s.params.tailPolicy i
  cases h with
  | wrongKind => simp [hcons]
  | badLength _ hlength => exact lengthError_mem_allowedStatuses hlength
  | badFormat _ hformat => exact formatError_mem_allowedStatuses hformat
  | passed => simp [hcons]

/-- The block after reset, in a build with a tail policy and no bound, with a payload presented. -/
def State.presenting (policy : TailPolicy) (input : List Byte) : State :=
  { State.reset with ibuf := input, params := { tailPolicy := policy, maxLen := none } }

/-- Under `policy` the instruction of `i`'s name ends in `st` from some state with the tables built. -/
abbrev Reaches (policy : TailPolicy) (i : Instr) (st : Status) : Prop :=
  ∃ (j : Instr) (s t : State), j.mnemonic = i.mnemonic ∧ s.TablesBuilt ∧ s.params.tailPolicy = policy ∧
    exec j s = .next t ∧ t.status = st

/-- With no bound an instruction answers, so all it takes is a payload whose response has the status. -/
theorem reaches_of_status {policy : TailPolicy} {i : Instr} {st : Status} (j : Instr) (input : List Byte)
    (hname : j.mnemonic = i.mnemonic) (hstatus : (responseOf j (.presenting policy input)).status = st) :
    Reaches policy i st :=
  ⟨j, .presenting policy input, _, hname, contents_built _ rfl rfl rfl, rfl,
    exec_of_fits (withinMaxLen_none rfl _) (withinMaxLen_none rfl _), hstatus⟩

/-- Each status of an instruction has a payload that the model evaluates to it, in the order of `allowedStatuses`. -/
theorem reaches_of_mem_allowedStatuses (i : Instr) (policy : TailPolicy) :
    ∀ st ∈ allowedStatuses policy i, Reaches policy i st := by
  cases i with
  | hexenc k =>
    simp only [allowedStatuses, List.forall_mem_cons]
    exact ⟨reaches_of_status (.hexenc .bytes) (List.replicate 16 0) rfl rfl,
      reaches_of_status (.hexenc .string) [] rfl rfl,
      reaches_of_status (.hexenc .bytes) [] rfl rfl, nofun⟩
  | hexencu k =>
    simp only [allowedStatuses, List.forall_mem_cons]
    exact ⟨reaches_of_status (.hexencu .bytes) (List.replicate 16 0) rfl rfl,
      reaches_of_status (.hexencu .string) [] rfl rfl,
      reaches_of_status (.hexencu .bytes) [] rfl rfl, nofun⟩
  | hexdec k =>
    have hformat : hexdecResponse .string (ascii "zz") = raise .formatError :=
      hexdecResponse_badChar (by decide) (by decide)
    simp only [allowedStatuses, List.forall_mem_cons]
    exact ⟨reaches_of_status (.hexdec .string) [] rfl rfl,
      reaches_of_status (.hexdec .bytes) [] rfl rfl,
      reaches_of_status (.hexdec .string) (ascii "a") rfl rfl,
      reaches_of_status (.hexdec .string) (ascii "zz") rfl (congrArg Response.status hformat), nofun⟩
  | b64enc k =>
    have hok : Reaches policy (.b64enc k) .ok := reaches_of_status (.b64enc .bytes) [] rfl rfl
    have htype : Reaches policy (.b64enc k) (.error .typeError) := reaches_of_status (.b64enc .string) [] rfl rfl
    cases policy with
    | fault =>
      simp only [allowedStatuses, List.forall_mem_cons]
      exact ⟨hok, htype, reaches_of_status (.b64enc .bytes) [0] rfl rfl, nofun⟩
    | drop =>
      simp only [allowedStatuses, List.forall_mem_cons]
      exact ⟨hok, htype, nofun⟩
  | b64dec k =>
    simp only [allowedStatuses, List.forall_mem_cons]
    exact ⟨reaches_of_status (.b64dec .string) [] rfl rfl,
      reaches_of_status (.b64dec .bytes) [] rfl rfl,
      reaches_of_status (.b64dec .string) (ascii "A") rfl rfl, nofun⟩

/-- Settles O43: the cases of `EndsIn` stay within an instruction's statuses, and each of those has its payload. -/
theorem statusesOfEachInstruction : Obligations.StatusesOfEachInstruction :=
  ⟨fun _ _ _ h => ((exec_status_iff h _).1 rfl).mem_allowedStatuses, reaches_of_mem_allowedStatuses⟩

/-- Settles O37: the last clause holds of each of the five statuses. -/
theorem statusCodes : Obligations.StatusCodes := by
  refine ⟨rfl, rfl, rfl, rfl, rfl, fun st => ?_⟩
  cases st with
  | ok => decide
  | error e => cases e <;> decide

/-! #### Every step completes -/

theorem step_idle {s : State} (h : s.host = []) : step s = .next s := by
  simp only [step, h]

theorem step_reset {s : State} {abandoned : Option Command} {rest : List HostEvent}
    (h : s.host = .reset abandoned :: rest) : step s = .next (s.takeReset abandoned rest) := by
  simp only [step, h]

/-- Settles O7. -/
theorem idleStepRetainsState : Obligations.IdleStepRetainsState := fun _ => step_idle

/-- Settles O10: an idle step and a reset always answer, and a command can only be refused for a bound. -/
theorem everyStepCompletesWithoutBound : Obligations.EveryStepCompletesWithoutBound := by
  intro s hbound
  cases hhost : s.host with
  | nil => exact ⟨_, step_idle hhost⟩
  | cons event rest =>
    cases event with
    | reset abandoned => exact ⟨_, step_reset hhost⟩
    | issue c =>
      rw [step_issue hhost]
      exact ⟨_, respond_of_fits (withinMaxLen_none hbound _) (withinMaxLen_none hbound _)⟩

end Sys2Proof.Machine

/-! ### The family of 70_reset_and_hazards.md: what a reset leaves -/

namespace Sys2Proof.Machine

/-- Settles O8: the step is `takeReset`, which leaves the values of 10_state.md R27 in either form of the event. -/
theorem resetStepGivesResetValues : Obligations.ResetStepGivesResetValues := fun s abandoned rest hhost =>
  ⟨s.takeReset abandoned rest, step_reset hhost, takeReset_tablesBuilt s abandoned rest,
    takeReset_response s abandoned rest, takeReset_params s abandoned rest, takeReset_host s abandoned rest⟩

end Sys2Proof.Machine
